-- ==== Sys2Proof/Word.lean ====
section
/-! DEFINITION. The widths of K1CORE: bytes, 32-bit port words and command words, 256-bit register values (R10, R12). -/

namespace Sys2Proof

/-- A byte of a byte string (R14). -/
abbrev Byte := BitVec 8

/-- A byte string, first byte first (R14). -/
abbrev Bytes := List Byte

/-- A word of the host port, a command word, a SHA-256 word (R12, R90, R200). -/
abbrev Word32 := BitVec 32

/-- The contents of a general register: a raw unsigned 256-bit integer (R10, R21). -/
abbrev Word256 := BitVec 256

end Sys2Proof
end

