-- ==== Sys2Proof/Config.lean ====
section
/-! DEFINITION. What is fixed for one K1CORE: the curve record (R11) and the window's bus address (R72). -/

namespace Sys2Proof

/-- The curve descriptor `(p, a, b, Gx, Gy, n)` of R11. -/
structure Curve where
  /-- the field prime -/
  p : Nat
  /-- the coefficient of `x` -/
  a : Nat
  /-- the constant term -/
  b : Nat
  /-- the generator's `x` -/
  gx : Nat
  /-- the generator's `y` -/
  gy : Nat
  /-- the group order -/
  n : Nat
deriving DecidableEq, Repr

namespace Config

/-- The constant record of K1CORE, secp256k1 (R11, R180). -/
def curve : Curve where
  p := 2 ^ 256 - 2 ^ 32 - 977
  a := 0
  b := 7
  gx := 0x79BE667EF9DCBBAC55A06295CE870B07029BFCDB2DCE28D959F2815B16F81798
  gy := 0x483ADA7726A3C4655DA4FBFC0E1108A8FD17B448A68554199C47D08FFB10D4B8
  n := 0xFFFFFFFFFFFFFFFFFFFFFFFFFFFFFFFEBAAEDCE6AF48A03BBFD25E8CD0364141

/-- The open parameter behind `BASE`: which 0x400-byte slot of the host bus the window takes (R72; log entry 5).
It has no body, so nothing can be proved of its value. -/
opaque baseSlot : Nat

/-- `BASE`, the bus address of the window: any multiple of 0x400 (R12, R72). -/
def base : Nat := 0x400 * baseSlot

/-- The constant the host reads at offset 0: `ID` (R31). -/
def idWord : Word32 := 0x4B310100

end Config

end Sys2Proof
end

