-- ==== Sys2Proof/Syntax.lean ====
section
/-! DEFINITION. The command set K1CMD 1.0 as syntax: one constructor per row of the opcode map (R96). -/

namespace Sys2Proof

/-- A general register specifier, `r0` to `r15` (R94). -/
abbrev Reg := Fin 16

/-- A point register specifier, `P0` to `P3` (R94). -/
abbrev PReg := Fin 4

/-- The modulus a modular command selects with its `M` bit: `.p` is `M = 0`, `.n` is `M = 1` (R93). -/
inductive Modulus where
  | p
  | n
deriving DecidableEq, Repr

/-- The commands (R96). Operands stand in the order of the syntax column of R96, the modulus first, then the
command's flag bit where it has one. -/
inductive Instr where
  /-- `NOP` (R250) -/
  | nop
  /-- `MOV rd, ra` (R251) -/
  | mov (rd ra : Reg)
  /-- `LDI rd, imm16` (R252) -/
  | ldi (rd : Reg) (imm : BitVec 16)
  /-- `ZEROIZE` (R253) -/
  | zeroize
  /-- `FADD.P|.N rd, ra, rb` (R128) -/
  | fadd (m : Modulus) (rd ra rb : Reg)
  /-- `FSUB.P|.N rd, ra, rb` (R129) -/
  | fsub (m : Modulus) (rd ra rb : Reg)
  /-- `FMUL.P|.N rd, ra, rb` (R130) -/
  | fmul (m : Modulus) (rd ra rb : Reg)
  /-- `FPOW.P|.N[.NEG] rd, ra, rb` (R131) -/
  | fpow (m : Modulus) (neg : Bool) (rd ra rb : Reg)
  /-- `FINV.P|.N rd, ra` (R132) -/
  | finv (m : Modulus) (rd ra : Reg)
  /-- `FDIV.P|.N rd, ra, rb` (R133) -/
  | fdiv (m : Modulus) (rd ra rb : Reg)
  /-- `MRED.P|.N rd, rb`, the form `W = 0` (R134) -/
  | mred (m : Modulus) (rd rb : Reg)
  /-- `MRED.P|.N.W rd, ra, rb`, the form `W = 1` (R134) -/
  | mredW (m : Modulus) (rd ra rb : Reg)
  /-- `MULL rd, ra, rb` (R135) -/
  | mull (rd ra rb : Reg)
  /-- `MULH rd, ra, rb` (R136) -/
  | mulh (rd ra rb : Reg)
  /-- `PSET pd, ra, rb` (R156) -/
  | pset (pd : PReg) (ra rb : Reg)
  /-- `PINF pd` (R157) -/
  | pinf (pd : PReg)
  /-- `PMOV pd, pa` (R158) -/
  | pmov (pd pa : PReg)
  /-- `PADD pd, pa, pb` (R159) -/
  | padd (pd pa pb : PReg)
  /-- `PMUL pd, pa, rb` (R160) -/
  | pmul (pd pa : PReg) (rb : Reg)
  /-- `PGETX rd, pa` (R161) -/
  | pgetx (rd : Reg) (pa : PReg)
  /-- `PGETY rd, pa` (R162) -/
  | pgety (rd : Reg) (pa : PReg)
  /-- `PEQ pa, pb` (R163) -/
  | peq (pa pb : PReg)
  /-- `PLDG pd` (R181) -/
  | pldg (pd : PReg)
  /-- `PDEC.E|.O pd, ra`; `odd` is the `PAR` bit (R183) -/
  | pdec (odd : Bool) (pd : PReg) (ra : Reg)
  /-- `KEYLOAD ra` (R221) -/
  | keyload (ra : Reg)
  /-- `KEYPUB pd` (R222) -/
  | keypub (pd : PReg)
  /-- `KEYCLR` (R223) -/
  | keyclr
  /-- `KGEN rd, ra` (R225) -/
  | kgen (rd ra : Reg)
  /-- `SIGN rd, re, ra` (R226) -/
  | sign (rd re ra : Reg)
  /-- `VERIFY pa, ra, rb, rc` (R228) -/
  | verify (pa : PReg) (ra rb rc : Reg)
deriving DecidableEq, Repr

end Sys2Proof
end

