-- ==== Sys2Proof/WellFormed.lean ====
section
/-! DEFINITION. Which commands are legal. Register and point specifiers are in range by their types (R94); the one
check left is that `SIGN` has two different destinations (R97). -/

namespace Sys2Proof

/-- The command has a legal encoding (R97). -/
def Instr.wf : Instr → Bool
  | .nop => true
  | .mov _ _ => true
  | .ldi _ _ => true
  | .zeroize => true
  | .fadd _ _ _ _ => true
  | .fsub _ _ _ _ => true
  | .fmul _ _ _ _ => true
  | .fpow _ _ _ _ _ => true
  | .finv _ _ _ => true
  | .fdiv _ _ _ _ => true
  | .mred _ _ _ => true
  | .mredW _ _ _ _ => true
  | .mull _ _ _ => true
  | .mulh _ _ _ => true
  | .pset _ _ _ => true
  | .pinf _ => true
  | .pmov _ _ => true
  | .padd _ _ _ => true
  | .pmul _ _ _ => true
  | .pgetx _ _ => true
  | .pgety _ _ => true
  | .peq _ _ => true
  | .pldg _ => true
  | .pdec _ _ _ => true
  | .keyload _ => true
  | .keypub _ => true
  | .keyclr => true
  | .kgen _ _ => true
  | .sign rd re _ => decide (rd ≠ re)
  | .verify _ _ _ _ => true

end Sys2Proof
end

