-- ==== Sys2Proof/Decode.lean ====
section
/-! DEFINITION. The opcode map (R96), the total decoder (R99) and the encoder (R91, R92). -/

namespace Sys2Proof

/-! ## The decoder -/

/-- Why a word is illegal (R97, R99). -/
inductive Illegal where
  /-- the word matches no row of the opcode map -/
  | noRow
  /-- a `SIGN` word whose `A` and `D` fields are equal -/
  | signSameDestination
deriving DecidableEq, Repr

/-- The 4-bit field of a command word whose lowest bit is `lo`, as a general register (R94). -/
def regAt (lo : Nat) (w : Word32) : Reg := Fin.ofNat 16 (w.extractLsb' lo 4).toNat

/-- The low two bits of the field whose lowest bit is `lo`, as a point register; the rows' masks make the upper
two bits zero (R94). -/
def pregAt (lo : Nat) (w : Word32) : PReg := Fin.ofNat 4 (w.extractLsb' lo 2).toNat

/-- The operand fields `A`, `B`, `C`, `D` as general registers (R91). -/
def fieldA (w : Word32) : Reg := regAt 16 w
def fieldB (w : Word32) : Reg := regAt 12 w
def fieldC (w : Word32) : Reg := regAt 8 w
def fieldD (w : Word32) : Reg := regAt 4 w

/-- The operand fields `A`, `B`, `C` as point registers (R91, R94). -/
def pointA (w : Word32) : PReg := pregAt 16 w
def pointB (w : Word32) : PReg := pregAt 12 w
def pointC (w : Word32) : PReg := pregAt 8 w

/-- The modulus selected by bit 20, `M` (R93). -/
def modulusBit (w : Word32) : Modulus := if w.getLsbD 20 then .n else .p

/-- Bit 21, the command's own flag `F` (R91). -/
def flagBit (w : Word32) : Bool := w.getLsbD 21

/-- One row of the opcode map: its mnemonic, its fixed bits and the command read from a word of the row. -/
structure Row where
  mnemonic : String
  fixed : Word32
  mask : Word32
  build : Word32 → Instr

/-- The housekeeping rows (R96, opcodes 0x00 to 0x03). -/
def systemRows : List Row := [
  ⟨"NOP", 0x00000000, 0xFFFFFFFF, fun _ => .nop⟩,
  ⟨"MOV", 0x01000000, 0xFFF00FFF, fun w => .mov (fieldA w) (fieldB w)⟩,
  ⟨"LDI", 0x02000000, 0xFFF00000, fun w => .ldi (fieldA w) (w.extractLsb' 0 16)⟩,
  ⟨"ZEROIZE", 0x03000000, 0xFFFFFFFF, fun _ => .zeroize⟩]

/-- The field arithmetic rows (R96, opcodes 0x10 to 0x18). -/
def fieldRows : List Row := [
  ⟨"FADD", 0x10000000, 0xFFE000FF, fun w => .fadd (modulusBit w) (fieldA w) (fieldB w) (fieldC w)⟩,
  ⟨"FSUB", 0x11000000, 0xFFE000FF, fun w => .fsub (modulusBit w) (fieldA w) (fieldB w) (fieldC w)⟩,
  ⟨"FMUL", 0x12000000, 0xFFE000FF, fun w => .fmul (modulusBit w) (fieldA w) (fieldB w) (fieldC w)⟩,
  ⟨"FPOW", 0x13000000, 0xFFC000FF,
    fun w => .fpow (modulusBit w) (flagBit w) (fieldA w) (fieldB w) (fieldC w)⟩,
  ⟨"FINV", 0x14000000, 0xFFE00FFF, fun w => .finv (modulusBit w) (fieldA w) (fieldB w)⟩,
  ⟨"FDIV", 0x15000000, 0xFFE000FF, fun w => .fdiv (modulusBit w) (fieldA w) (fieldB w) (fieldC w)⟩,
  ⟨"MRED", 0x16000000, 0xFFE0F0FF, fun w => .mred (modulusBit w) (fieldA w) (fieldC w)⟩,
  ⟨"MRED.W", 0x16200000, 0xFFE000FF, fun w => .mredW (modulusBit w) (fieldA w) (fieldB w) (fieldC w)⟩,
  ⟨"MULL", 0x17000000, 0xFFF000FF, fun w => .mull (fieldA w) (fieldB w) (fieldC w)⟩,
  ⟨"MULH", 0x18000000, 0xFFF000FF, fun w => .mulh (fieldA w) (fieldB w) (fieldC w)⟩]

/-- The point rows (R96, opcodes 0x20 to 0x29). -/
def pointRows : List Row := [
  ⟨"PSET", 0x20000000, 0xFFFC00FF, fun w => .pset (pointA w) (fieldB w) (fieldC w)⟩,
  ⟨"PINF", 0x21000000, 0xFFFCFFFF, fun w => .pinf (pointA w)⟩,
  ⟨"PMOV", 0x22000000, 0xFFFCCFFF, fun w => .pmov (pointA w) (pointB w)⟩,
  ⟨"PADD", 0x23000000, 0xFFFCCCFF, fun w => .padd (pointA w) (pointB w) (pointC w)⟩,
  ⟨"PMUL", 0x24000000, 0xFFFCC0FF, fun w => .pmul (pointA w) (pointB w) (fieldC w)⟩,
  ⟨"PGETX", 0x25000000, 0xFFF0CFFF, fun w => .pgetx (fieldA w) (pointB w)⟩,
  ⟨"PGETY", 0x26000000, 0xFFF0CFFF, fun w => .pgety (fieldA w) (pointB w)⟩,
  ⟨"PEQ", 0x27000000, 0xFFFFCCFF, fun w => .peq (pointB w) (pointC w)⟩,
  ⟨"PLDG", 0x28000000, 0xFFFCFFFF, fun w => .pldg (pointA w)⟩,
  ⟨"PDEC", 0x29000000, 0xFFDC0FFF, fun w => .pdec (flagBit w) (pointA w) (fieldB w)⟩]

/-- The key and ECDSA rows (R96, opcodes 0x30 to 0x35). -/
def ecdsaRows : List Row := [
  ⟨"KEYLOAD", 0x30000000, 0xFFFF0FFF, fun w => .keyload (fieldB w)⟩,
  ⟨"KEYPUB", 0x31000000, 0xFFFCFFFF, fun w => .keypub (pointA w)⟩,
  ⟨"KEYCLR", 0x32000000, 0xFFFFFFFF, fun _ => .keyclr⟩,
  ⟨"KGEN", 0x33000000, 0xFFF00FFF, fun w => .kgen (fieldA w) (fieldB w)⟩,
  ⟨"SIGN", 0x34000000, 0xFFF00F0F, fun w => .sign (fieldA w) (fieldD w) (fieldB w)⟩,
  ⟨"VERIFY", 0x35000000, 0xFFFC000F, fun w => .verify (pointA w) (fieldB w) (fieldC w) (fieldD w)⟩]

/-- The complete command set, 30 rows (R96). -/
def rows : List Row := systemRows ++ fieldRows ++ pointRows ++ ecdsaRows

/-- `w` is a word of the row (R96). -/
def Row.hit (w : Word32) (r : Row) : Bool := w &&& r.mask == r.fixed

/-- `decode(w)` of R99: the row's command, or `Illegal`. Reads no state and is total. -/
def decode (w : Word32) : Except Illegal Instr :=
  match rows.find? (Row.hit w) with
  | none => .error .noRow
  | some r => if (r.build w).wf then .ok (r.build w) else .error .signSameDestination

/-- The command of an opcode-table word: bit 0 is the least significant bit, and bits from `nbits` on are 0. -/
def decodeTableWord (nbits w : Nat) : Option Instr :=
  match decode (BitVec.ofNat 32 (w % 2 ^ nbits)) with
  | .ok i => some i
  | .error _ => none

/-! ## The encoder -/

/-- Format R (R91). -/
def formatR (op : BitVec 8) (f m : Bool) (a b c d : BitVec 4) : Word32 :=
  op ++ 0#2 ++ BitVec.ofBool f ++ BitVec.ofBool m ++ a ++ b ++ c ++ d ++ 0#4

/-- Format I (R92). -/
def formatI (op : BitVec 8) (a : BitVec 4) (imm : BitVec 16) : Word32 :=
  op ++ 0#4 ++ a ++ imm

/-- A general register in an operand field (R94). -/
def Reg.bits (r : Reg) : BitVec 4 := BitVec.ofNat 4 r.val

/-- A point register in an operand field: 0 to 3 (R94). -/
def PReg.bits (r : PReg) : BitVec 4 := BitVec.ofNat 4 r.val

/-- The `M` bit (R93). -/
def Modulus.bit : Modulus → Bool
  | .p => false
  | .n => true

/-- The command word of a command, from the fields the command rules give it (R96). -/
def encode : Instr → Word32
  | .nop => formatR 0x00 false false 0 0 0 0
  | .mov rd ra => formatR 0x01 false false rd.bits ra.bits 0 0
  | .ldi rd imm => formatI 0x02 rd.bits imm
  | .zeroize => formatR 0x03 false false 0 0 0 0
  | .fadd m rd ra rb => formatR 0x10 false m.bit rd.bits ra.bits rb.bits 0
  | .fsub m rd ra rb => formatR 0x11 false m.bit rd.bits ra.bits rb.bits 0
  | .fmul m rd ra rb => formatR 0x12 false m.bit rd.bits ra.bits rb.bits 0
  | .fpow m neg rd ra rb => formatR 0x13 neg m.bit rd.bits ra.bits rb.bits 0
  | .finv m rd ra => formatR 0x14 false m.bit rd.bits ra.bits 0 0
  | .fdiv m rd ra rb => formatR 0x15 false m.bit rd.bits ra.bits rb.bits 0
  | .mred m rd rb => formatR 0x16 false m.bit rd.bits 0 rb.bits 0
  | .mredW m rd ra rb => formatR 0x16 true m.bit rd.bits ra.bits rb.bits 0
  | .mull rd ra rb => formatR 0x17 false false rd.bits ra.bits rb.bits 0
  | .mulh rd ra rb => formatR 0x18 false false rd.bits ra.bits rb.bits 0
  | .pset pd ra rb => formatR 0x20 false false pd.bits ra.bits rb.bits 0
  | .pinf pd => formatR 0x21 false false pd.bits 0 0 0
  | .pmov pd pa => formatR 0x22 false false pd.bits pa.bits 0 0
  | .padd pd pa pb => formatR 0x23 false false pd.bits pa.bits pb.bits 0
  | .pmul pd pa rb => formatR 0x24 false false pd.bits pa.bits rb.bits 0
  | .pgetx rd pa => formatR 0x25 false false rd.bits pa.bits 0 0
  | .pgety rd pa => formatR 0x26 false false rd.bits pa.bits 0 0
  | .peq pa pb => formatR 0x27 false false 0 pa.bits pb.bits 0
  | .pldg pd => formatR 0x28 false false pd.bits 0 0 0
  | .pdec odd pd ra => formatR 0x29 odd false pd.bits ra.bits 0 0
  | .keyload ra => formatR 0x30 false false 0 ra.bits 0 0
  | .keypub pd => formatR 0x31 false false pd.bits 0 0 0
  | .keyclr => formatR 0x32 false false 0 0 0 0
  | .kgen rd ra => formatR 0x33 false false rd.bits ra.bits 0 0
  | .sign rd re ra => formatR 0x34 false false rd.bits ra.bits 0 re.bits
  | .verify pa ra rb rc => formatR 0x35 false false pa.bits ra.bits rb.bits rc.bits

/-! ## Pseudo-instructions (R101), each an exact synonym of one command -/

/-- `CLR rd` -/
def pseudoClr (rd : Reg) : Instr := .ldi rd 0

/-- `PDBL pd, pa` -/
def pseudoPdbl (pd pa : PReg) : Instr := .padd pd pa pa

/-- `FSQR.P|.N rd, ra` -/
def pseudoFsqr (m : Modulus) (rd ra : Reg) : Instr := .fmul m rd ra ra

/-- `FRED.P|.N rd, rb` -/
def pseudoFred (m : Modulus) (rd rb : Reg) : Instr := .mred m rd rb

end Sys2Proof
end

