-- ==== Sys2Proof/Machine/State.lean ====
section
/-! DEFINITION. The architectural state of one K1CORE (R20), the transactions its environment can make (R19), its state
after reset (R41), and the outcomes of a step. -/

namespace Sys2Proof.Machine

/-- A point of the curve: `Infinity` or an affine pair of 256-bit coordinates (R24, R150). -/
inductive Point where
  | infinity
  | affine (x y : Word256)
deriving DecidableEq, Repr

/-- The error codes of `STATUS.CODE` (R301). The last two are reserved: no rule raises them. -/
inductive Code where
  /-- 0x00: success, still running, or no command yet -/
  | none
  /-- 0x01 -/
  | illegalCmd
  /-- 0x02 -/
  | operandRange
  /-- 0x03 -/
  | pointNotOnCurve
  /-- 0x04 -/
  | pointAtInfinity
  /-- 0x05 -/
  | noKey
  /-- 0x06 -/
  | keyRange
  /-- 0x80, fatal -/
  | divZero
  /-- 0x81, fatal, reserved -/
  | primeMismatch
  /-- 0x82, fatal, reserved -/
  | curveMismatch
deriving DecidableEq, Repr

/-- The key slot (R26). -/
structure KeySlot where
  valid : Bool
  secret : Word256
  pub : Point
deriving DecidableEq, Repr

/-- The empty key slot (R41, R223). -/
def KeySlot.empty : KeySlot := ⟨false, 0, .infinity⟩

/-- The five result flags (R29). -/
structure Flags where
  z : Bool
  inf : Bool
  odd : Bool
  eq : Bool
  v : Bool
deriving DecidableEq, Repr

/-- All flags 0 (R41). -/
def Flags.clear : Flags := ⟨false, false, false, false, false⟩

/-- What the environment can make happen next (R19, R74): a host transaction at a window offset (R62, R63) or at a bus
address (R72), the hardware reset input (R340), or the engine's turn. A size other than 4 bytes is an access the port
refuses (R66), whatever its data. -/
inductive Event where
  /-- `MemRead(off, size)` -/
  | read (off size : Nat)
  /-- `MemWrite(off, size, v)` -/
  | write (off size : Nat) (v : Word32)
  /-- a read at a bus address -/
  | busRead (addr size : Nat)
  /-- a write at a bus address -/
  | busWrite (addr size : Nat) (v : Word32)
  /-- power-on or the reset input -/
  | hardReset
  /-- the engine is scheduled -/
  | engine
deriving DecidableEq, Repr

/-- What the port answers to a host transaction (R62, R63, R66). -/
inductive Reply where
  /-- the word of a read -/
  | data (v : Word32)
  /-- `Ok` of a write -/
  | ok
  /-- the bus error response -/
  | busError
deriving DecidableEq, Repr

/-- The complete architectural state (R20) and, after it, the model's own three fields. -/
structure State where
  /-- `r0` to `r15` (R21) -/
  regs : Vector Word256 16
  /-- `P0` to `P3` (R24) -/
  points : Vector Point 4
  /-- `KEY` (R26) -/
  key : KeySlot
  /-- `CMD` (R28) -/
  cmd : Word32
  /-- `Z INF ODD EQ V` (R29) -/
  flags : Flags
  /-- `STATUS.BUSY` (R33) -/
  busy : Bool
  /-- `STATUS.DONE` (R33) -/
  done : Bool
  /-- `STATUS.ERR` (R33) -/
  err : Bool
  /-- `STATUS.FATAL` (R33) -/
  fatal : Bool
  /-- `STATUS.CODE` (R33, R301) -/
  code : Code
  /-- `IEN[3:0]` (R34) -/
  ien : BitVec 4
  /-- `ISTAT[3:0]` (R35) -/
  istat : BitVec 4
  /-- The model's own: how many nonce candidates the running `KGEN` or `SIGN` has rejected (log entry 3). -/
  nonceTry : Nat
  /-- The model's own: the environment's next events, first to come first (R74; log entry 2). When it is empty the
  engine has the turn. -/
  schedule : List Event
  /-- The model's own: the port's answer to the last host transaction (log entry 4). -/
  reply : Option Reply
deriving DecidableEq, Repr

/-- The machine right after a reset (R41, R341). -/
def State.reset : State where
  regs := Vector.replicate 16 0
  points := Vector.replicate 4 .infinity
  key := .empty
  cmd := 0
  flags := .clear
  busy := false
  done := false
  err := false
  fatal := false
  code := .none
  ien := 0
  istat := 0
  nonceTry := 0
  schedule := []
  reply := none

/-- Why the machine stops with a fault. There is no constructor: the spec gives every command, every host access and
every schedule a next state (R97, R300, R306, R319), the fatal state included, so nothing in K1CORE stops the model. -/
inductive Fault where
deriving DecidableEq, Repr

/-- Why an instruction has no meaning. -/
inductive Refusal where
  /-- Raised by an arm of `exec` for an instruction that has no meaning yet; safe, since no claim about a next state
  holds of it. No arm raises it now. -/
  | notModelled (mnemonic : String)
deriving DecidableEq, Repr

/-- The outcome of a command or a step. -/
abbrev Result := Host.Outcome State Fault Refusal

end Sys2Proof.Machine
end

