-- ==== Sys2Proof/Machine/Bits.lean ====
section
/-! DEFINITION. Words of a register image, and integers as big-endian byte strings (R14, R64, R65). -/

namespace Sys2Proof.Machine

/-- Word `j` of a register's image: bits `32j+31` to `32j` (R64). -/
def wordOf (x : Word256) (j : Nat) : Word32 := x.extractLsb' (32 * j) 32

/-- The register value with word `j` of its image replaced, the other 224 bits unchanged (R63). -/
def setWord (x : Word256) (j : Nat) (v : Word32) : Word256 :=
  (x &&& ~~~((0xFFFFFFFF#256) <<< (32 * j))) ||| (v.setWidth 256 <<< (32 * j))

/-- Byte `t` of the 32-byte little-endian image of a register on a byte-addressed bus (R65(b)). -/
def imageByte (x : Word256) (t : Nat) : Byte := x.extractLsb' (8 * t) 8

/-- `BE32(v)`: byte `t` is `v[255−8t : 248−8t]` (R14). -/
def be32 (v : Word256) : Bytes := (List.range 32).map fun t => v.extractLsb' (248 - 8 * t) 8

/-- `BE32` of an integer below `2^256` (R14, R205). -/
def be32Nat (v : Nat) : Bytes := be32 (BitVec.ofNat 256 v)

/-- `INT(s)`: the unsigned big-endian integer of a byte string (R14). -/
def intOf (s : Bytes) : Nat := s.foldl (fun acc b => acc * 256 + b.toNat) 0

end Sys2Proof.Machine
end

