-- ==== Sys2Proof/Machine/Operands.lean ====
section
/-! DEFINITION. Every operand form of a command (R93 to R95): general registers, point registers, the immediate, the
selected modulus, and the range check of a field element (R120). -/

namespace Sys2Proof.Machine

/-- `r[i]`, the raw 256-bit value (R15, R23). -/
def State.reg (s : State) (i : Reg) : Word256 := s.regs.get i

/-- `P[i]` (R15). -/
def State.point (s : State) (i : PReg) : Point := s.points.get i

/-- The register's value as an unsigned integer (R13, R21). -/
def State.num (s : State) (i : Reg) : Nat := (s.reg i).toNat

/-- `m(M)`: the modulus a command selects (R93). -/
def modulus : Modulus → Nat
  | .p => Config.curve.p
  | .n => Config.curve.n

/-- `IMM16` zero-extended to 256 bits (R95). -/
def immediate (imm : BitVec 16) : Word256 := imm.setWidth 256

/-- The source registers that a command uses as field elements under modulus `m` all hold values below `m` (R120). The
test of `ra` before `rb` cannot be seen: both give the same code (R302). -/
def State.inRange (s : State) (m : Nat) (sources : List Reg) : Bool :=
  sources.all fun r => decide (s.num r < m)

end Sys2Proof.Machine
end

