-- ==== Sys2Proof/Machine/Flags.lean ====
section
/-! DEFINITION. The result flags (R29, R30), the status word (R33), the error codes' numbers (R301), and the interrupt
bits and output (R34 to R36). -/

namespace Sys2Proof.Machine

/-! ## Result flags: each writer changes its own flag (R29) -/

/-- `FLAG.Z <- b` -/
def State.setZ (s : State) (b : Bool) : State := { s with flags := { s.flags with z := b } }

/-- `FLAG.INF <- b` -/
def State.setInf (s : State) (b : Bool) : State := { s with flags := { s.flags with inf := b } }

/-- `FLAG.ODD <- b` -/
def State.setOdd (s : State) (b : Bool) : State := { s with flags := { s.flags with odd := b } }

/-- `FLAG.EQ <- b` -/
def State.setEq (s : State) (b : Bool) : State := { s with flags := { s.flags with eq := b } }

/-- `FLAG.V <- b` -/
def State.setV (s : State) (b : Bool) : State := { s with flags := { s.flags with v := b } }

/-- The value of `Z` for a result: the 256-bit value written is 0 (R139). -/
def isZero (v : Word256) : Bool := v == 0

/-- The value of `INF` for a point written (R29). -/
def isInfinity : Point → Bool
  | .infinity => true
  | .affine _ _ => false

/-- The value of `ODD` for a coordinate `y`: `y[0]` (R29). -/
def isOdd (y : Word256) : Bool := y.getLsbD 0

/-! ## The status word -/

/-- The number of an error code (R301). -/
def Code.toByte : Code → Byte
  | .none => 0x00
  | .illegalCmd => 0x01
  | .operandRange => 0x02
  | .pointNotOnCurve => 0x03
  | .pointAtInfinity => 0x04
  | .noKey => 0x05
  | .keyRange => 0x06
  | .divZero => 0x80
  | .primeMismatch => 0x81
  | .curveMismatch => 0x82

/-- The code is one of a recoverable error: a code from 0x01 to 0x06 (R300, R301). -/
def Code.recoverable : Code → Bool
  | .illegalCmd | .operandRange | .pointNotOnCurve | .pointAtInfinity | .noKey | .keyRange => true
  | .none | .divZero | .primeMismatch | .curveMismatch => false

/-- `STATUS`, assembled from its fields, bit 31 first; reserved bits read 0 (R33). -/
def State.statusWord (s : State) : Word32 :=
  0#10 ++ BitVec.ofBool s.key.valid ++ BitVec.ofBool s.flags.v ++ BitVec.ofBool s.flags.eq ++
    BitVec.ofBool s.flags.odd ++ BitVec.ofBool s.flags.inf ++ BitVec.ofBool s.flags.z ++ s.code.toByte ++ 0#4 ++
    BitVec.ofBool s.fatal ++ BitVec.ofBool s.err ++ BitVec.ofBool s.done ++ BitVec.ofBool s.busy

/-! ## Interrupt bits -/

/-- `ISTAT.DONE_I`, bit 0 (R35). -/
def doneI : BitVec 4 := 1

/-- `ISTAT.ERR_I`, bit 1 (R35). -/
def errI : BitVec 4 := 2

/-- `ISTAT.FATAL_I`, bit 2 (R35). -/
def fatalI : BitVec 4 := 4

/-- `ISTAT.OVR_I`, bit 3 (R35). -/
def ovrI : BitVec 4 := 8

/-- Set pending bits, enabled or not (R308). -/
def State.pend (s : State) (bits : BitVec 4) : State := { s with istat := s.istat ||| bits }

/-- The interrupt output: the level `(IEN and ISTAT)[3:0] ≠ 0` (R36, R309). -/
def State.irq (s : State) : Bool := s.ien &&& s.istat != 0

end Sys2Proof.Machine
end

