-- ==== Sys2Proof/Machine/Ops.lean ====
section
/-! DEFINITION. The named operations on the state: register, point and key writes; accept (R69); the three ways a
command completes (R303 to R305), of which the error and the fatal one are what K1CORE has for taking an exception
(R312); and reset (R341, R342). -/

namespace Sys2Proof.Machine

/-! ## Register writes -/

/-- `r[i] <- v` (R15). -/
def State.setReg (s : State) (i : Reg) (v : Word256) : State := { s with regs := s.regs.set i.val v i.isLt }

/-- `P[i] <- v` (R15). -/
def State.setPoint (s : State) (i : PReg) (v : Point) : State := { s with points := s.points.set i.val v i.isLt }

/-- Write the three fields of the key slot at once (R26). -/
def State.setKey (s : State) (k : KeySlot) : State := { s with key := k }

/-! ## Accept and completion -/

/-- The block is engine-owned (R70). -/
def State.owned (s : State) : Bool := s.busy || s.fatal

/-- `Accept(v)` (R69). No candidate has been tried yet for the accepted command (log entry 3). -/
def accept (v : Word32) (s : State) : State :=
  { s with cmd := v, busy := true, done := false, err := false, code := .none, nonceTry := 0 }

/-- `CompleteOk`, after the results are written (R304): `ERR` and `CODE` stand as the accept left them. -/
def completeOk (s : State) : State :=
  { s.pend doneI with busy := false, done := true, nonceTry := 0 }

/-- `CompleteError(code)` (R303). -/
def completeError (c : Code) (s : State) : State :=
  { s.pend (doneI ||| errI) with busy := false, done := true, err := true, code := c, nonceTry := 0 }

/-- `EnterFatal(code)` (R305). -/
def enterFatal (c : Code) (s : State) : State :=
  { s.pend (doneI ||| fatalI) with
    fatal := true, busy := false, done := true, err := false, code := c, nonceTry := 0 }

/-- `complete` of a command's pseudocode (R17). -/
def complete (s : State) : Result := .next (completeOk s)

/-- `raise Error(code)` of a command's pseudocode (R17). -/
def raiseError (c : Code) (s : State) : Result := .next (completeError c s)

/-- `raise Fatal(code)` of a command's pseudocode (R17). -/
def raiseFatal (c : Code) (s : State) : Result := .next (enterFatal c s)

/-- The engine has rejected a nonce candidate and goes on with the next one: the command is still running (R351; log
entry 3). -/
def nextCandidate (s : State) : Result := .next { s with nonceTry := s.nonceTry + 1 }

/-! ## Shared shapes of a successful completion -/

/-- Write a 256-bit result and its `Z`, and complete (R139). -/
def completeResult (rd : Reg) (v : Nat) (s : State) : Result :=
  complete ((s.setReg rd (BitVec.ofNat 256 v)).setZ (isZero (BitVec.ofNat 256 v)))

/-- Write a point and its `INF`, and complete (R29). -/
def completePoint (pd : PReg) (v : Point) (s : State) : Result :=
  complete ((s.setPoint pd v).setInf (isInfinity v))

/-! ## Reset -/

/-- Every piece of the state at its reset value (R341); the environment's coming events and the port's last answer are
not state of the block and stay. -/
def resetAll (s : State) : State := { State.reset with schedule := s.schedule, reply := s.reply }

/-- `SoftReset()` (R342): the latched command, if any, vanishes. -/
def softReset (s : State) : State := resetAll s

/-- `HardReset` (R340). -/
def hardReset (s : State) : State := resetAll s

end Sys2Proof.Machine
end

