-- ==== Sys2Proof/Machine/Field.lean ====
section
/-! DEFINITION. Modular arithmetic: the functions of R121 to R127 on exact integers, and the field commands
`FADD FSUB FMUL FPOW FINV FDIV MRED MRED.W MULL MULH` (R128 to R136). -/

namespace Sys2Proof.Machine

/-! ## The functions -/

/-- R121 -/
def fadd (a b m : Nat) : Nat := (a + b) % m

/-- R122: the non-negative residue of the difference (R13). -/
def fsub (a b m : Nat) : Nat := (((a : Int) - (b : Int)) % (m : Int)).toNat

/-- R123 -/
def fmul (a b m : Nat) : Nat := (a * b) % m

/-- The square-and-multiply loop of R124, least significant bit first. `fuel` bounds the bits of `e`: with
`e < 2 ^ fuel` the loop ends because `e` is used up. -/
def powLoop (m : Nat) : (fuel e cur result : Nat) → Nat
  | 0, _, _, result => result
  | fuel + 1, e, cur, result =>
    if e = 0 then result
    else powLoop m fuel (e / 2) (fmul cur cur m) (if e % 2 = 1 then fmul result cur m else result)

/-- The effective exponent of R124: `E`, or `(−E) mod (m − 1)`. -/
def effectiveExponent (E : Nat) (neg : Bool) (m : Nat) : Nat :=
  if neg then ((-(E : Int)) % ((m : Int) - 1)).toNat else E

/-- R124, for exponents below `2^256`. -/
def fpow (a E : Nat) (neg : Bool) (m : Nat) : Nat := powLoop m 256 (effectiveExponent E neg m) a 1

/-- R125: the Fermat inverse. At `b = 0` the spec leaves it undefined; the commands do not reach it there (R132, R133),
and neither does the group law on valid points (R152; log entry 6). -/
def finv (b m : Nat) : Nat := fpow b (m - 2) false m

/-- R126 -/
def fdiv (a b m : Nat) : Nat := fmul a (finv b m) m

/-- R127 -/
def mred (hi lo m : Nat) : Nat := (hi * 2 ^ 256 + lo) % m

/-! ## The commands -/

/-- The shape of `FADD`, `FSUB`, `FMUL`: both sources in range, then one function of them (R128 to R130). -/
def binaryField (f : Nat → Nat → Nat → Nat) (m : Modulus) (rd ra rb : Reg) (s : State) : Result :=
  if s.inRange (modulus m) [ra, rb] then completeResult rd (f (s.num ra) (s.num rb) (modulus m)) s
  else raiseError .operandRange s

/-- `FADD` (R128) -/
def execFadd (m : Modulus) (rd ra rb : Reg) (s : State) : Result := binaryField fadd m rd ra rb s

/-- `FSUB` (R129) -/
def execFsub (m : Modulus) (rd ra rb : Reg) (s : State) : Result := binaryField fsub m rd ra rb s

/-- `FMUL` (R130) -/
def execFmul (m : Modulus) (rd ra rb : Reg) (s : State) : Result := binaryField fmul m rd ra rb s

/-- `FPOW` (R131): only the base is range-checked. -/
def execFpow (m : Modulus) (neg : Bool) (rd ra rb : Reg) (s : State) : Result :=
  if s.inRange (modulus m) [ra] then completeResult rd (fpow (s.num ra) (s.num rb) neg (modulus m)) s
  else raiseError .operandRange s

/-- `FINV` (R132): the range check, then the zero divisor; `Z` is written 0. -/
def execFinv (m : Modulus) (rd ra : Reg) (s : State) : Result :=
  if s.inRange (modulus m) [ra] then
    if s.num ra = 0 then raiseFatal .divZero s
    else complete ((s.setReg rd (BitVec.ofNat 256 (finv (s.num ra) (modulus m)))).setZ false)
  else raiseError .operandRange s

/-- `FDIV` (R133): the range check of both sources, then the zero divisor. -/
def execFdiv (m : Modulus) (rd ra rb : Reg) (s : State) : Result :=
  if s.inRange (modulus m) [ra, rb] then
    if s.num rb = 0 then raiseFatal .divZero s
    else completeResult rd (fdiv (s.num ra) (s.num rb) (modulus m)) s
  else raiseError .operandRange s

/-- `MRED` with `W = 0` (R134): one 256-bit value, no range check. -/
def execMred (m : Modulus) (rd rb : Reg) (s : State) : Result :=
  completeResult rd (mred 0 (s.num rb) (modulus m)) s

/-- `MRED.W` (R134): the 512-bit value `r[ra] ‖ r[rb]`. -/
def execMredW (m : Modulus) (rd ra rb : Reg) (s : State) : Result :=
  completeResult rd (mred (s.num ra) (s.num rb) (modulus m)) s

/-- `MULL` (R135) -/
def execMull (rd ra rb : Reg) (s : State) : Result :=
  completeResult rd (s.num ra * s.num rb % 2 ^ 256) s

/-- `MULH` (R136) -/
def execMulh (rd ra rb : Reg) (s : State) : Result :=
  completeResult rd (s.num ra * s.num rb / 2 ^ 256) s

end Sys2Proof.Machine
end

