-- ==== Sys2Proof/Machine/Curve.lean ====
section
/-! DEFINITION. The curve functions: membership (R151), the group law (R152), scalar multiplication (R153), equality
(R154) and decompression (R182), over any curve record. -/

namespace Sys2Proof.Machine

/-- The right side of the curve equation, `x³ + a·x + b` (R151, R182). -/
def curveRhs (c : Curve) (x : Nat) : Nat :=
  fadd (fadd (fmul (fmul x x c.p) x c.p) (fmul c.a x c.p) c.p) c.b c.p

/-- `on_curve(x, y)` (R151) -/
def onCurve (c : Curve) (x y : Nat) : Bool := fmul y y c.p == curveRhs c x

/-- An affine point from coordinates below `2^256`. -/
def affineNat (x y : Nat) : Point := .affine (BitVec.ofNat 256 x) (BitVec.ofNat 256 y)

/-- The third point of a chord or tangent of slope `sl` through `(x1, y1)` and a point with `x = x2`, negated: the last
two lines of cases 5 and 6 of R152. -/
def thirdPoint (c : Curve) (sl x1 y1 x2 : Nat) : Point :=
  let x3 := fsub (fsub (fmul sl sl c.p) x1 c.p) x2 c.p
  affineNat x3 (fsub (fmul sl (fsub x1 x3 c.p) c.p) y1 c.p)

/-- The tangent's slope `(3·x1² + a) / (2·y1)` (R152 case 5). -/
def tangentSlope (c : Curve) (x1 y1 : Nat) : Nat :=
  fdiv (fadd (fmul 3 (fmul x1 x1 c.p) c.p) c.a c.p) (fmul 2 y1 c.p) c.p

/-- The chord's slope `(y2 − y1) / (x2 − x1)` (R152 case 6). -/
def chordSlope (c : Curve) (x1 y1 x2 y2 : Nat) : Nat :=
  fdiv (fsub y2 y1 c.p) (fsub x2 x1 c.p) c.p

/-- `point_add(P1, P2)`, its six cases in order (R152). -/
def pointAdd (c : Curve) : Point → Point → Point
  | .infinity, q => q
  | .affine x1 y1, .infinity => .affine x1 y1
  | .affine x1 y1, .affine x2 y2 =>
    if x1 = x2 then
      if y1 ≠ y2 then .infinity
      else if y1 = 0 then .infinity
      else thirdPoint c (tangentSlope c x1.toNat y1.toNat) x1.toNat y1.toNat x1.toNat
    else thirdPoint c (chordSlope c x1.toNat y1.toNat x2.toNat y2.toNat) x1.toNat y1.toNat x2.toNat

/-- The double-and-add loop of R153 over `bits` more bits of `k`, least significant first. -/
def mulLoop (c : Curve) : (bits k : Nat) → (result current : Point) → Point
  | 0, _, result, _ => result
  | bits + 1, k, result, current =>
    mulLoop c bits (k / 2) (if k % 2 = 1 then pointAdd c result current else result) (pointAdd c current current)

/-- `scalar_mul(k, P)`: all 256 bits of `k`, not reduced (R153). -/
def scalarMul (c : Curve) (k : Nat) (pt : Point) : Point := mulLoop c 256 k .infinity pt

/-- `point_eq(P1, P2)`: equality of the stored points (R154). -/
def pointEq (p1 p2 : Point) : Bool := p1 == p2

/-- The generator `G` (R181). -/
def generator (c : Curve) : Point := affineNat c.gx c.gy

/-- The `y` of the requested parity among `β` and `−β`, where `β = α^((p+1)/4)` (R182). -/
def rootOfParity (c : Curve) (alpha : Nat) (odd : Bool) : Nat :=
  let beta := fpow alpha ((c.p + 1) / 4) false c.p
  if decide (beta % 2 = 1) = odd then beta else fsub 0 beta c.p

/-- `decompress(X, par)`; `none` is `NotOnCurve` (R182). -/
def decompress (c : Curve) (x : Nat) (odd : Bool) : Option Point :=
  let y := rootOfParity c (curveRhs c x) odd
  if onCurve c x y then some (affineNat x y) else none

end Sys2Proof.Machine
end

