-- ==== Sys2Proof/Machine/Hash.lean ====
section
/-! DEFINITION. SHA-256 (R200 to R203), HMAC-SHA256 (R204) and the candidate sequence of the nonce derivation (R205). -/

namespace Sys2Proof.Machine

/-! ## SHA-256 -/

/-- `SHR(x, k)` is `x >>> k` and `ROTR(x, k)` is `x.rotateRight k` (R200). -/
def shaCh (x y z : Word32) : Word32 := (x &&& y) ^^^ (~~~x &&& z)
def shaMaj (x y z : Word32) : Word32 := (x &&& y) ^^^ (x &&& z) ^^^ (y &&& z)
def shaBigS0 (x : Word32) : Word32 := x.rotateRight 2 ^^^ x.rotateRight 13 ^^^ x.rotateRight 22
def shaBigS1 (x : Word32) : Word32 := x.rotateRight 6 ^^^ x.rotateRight 11 ^^^ x.rotateRight 25
def shaSmallS0 (x : Word32) : Word32 := x.rotateRight 7 ^^^ x.rotateRight 18 ^^^ (x >>> 3)
def shaSmallS1 (x : Word32) : Word32 := x.rotateRight 17 ^^^ x.rotateRight 19 ^^^ (x >>> 10)

/-- The eight words of a hash value, or of the working variables `a` to `h` (R201, R203). -/
structure ShaState where
  a : Word32
  b : Word32
  c : Word32
  d : Word32
  e : Word32
  f : Word32
  g : Word32
  h : Word32
deriving DecidableEq, Repr

/-- The initial hash value `H0` to `H7` (R201). -/
def shaInit : ShaState :=
  ⟨0x6a09e667, 0xbb67ae85, 0x3c6ef372, 0xa54ff53a, 0x510e527f, 0x9b05688c, 0x1f83d9ab, 0x5be0cd19⟩

/-- The round constants `K[0..63]` (R201), in eight rows. -/
def shaK : List Word32 :=
  [0x428a2f98, 0x71374491, 0xb5c0fbcf, 0xe9b5dba5, 0x3956c25b, 0x59f111f1, 0x923f82a4, 0xab1c5ed5] ++
  [0xd807aa98, 0x12835b01, 0x243185be, 0x550c7dc3, 0x72be5d74, 0x80deb1fe, 0x9bdc06a7, 0xc19bf174] ++
  [0xe49b69c1, 0xefbe4786, 0x0fc19dc6, 0x240ca1cc, 0x2de92c6f, 0x4a7484aa, 0x5cb0a9dc, 0x76f988da] ++
  [0x983e5152, 0xa831c66d, 0xb00327c8, 0xbf597fc7, 0xc6e00bf3, 0xd5a79147, 0x06ca6351, 0x14292967] ++
  [0x27b70a85, 0x2e1b2138, 0x4d2c6dfc, 0x53380d13, 0x650a7354, 0x766a0abb, 0x81c2c92e, 0x92722c85] ++
  [0xa2bfe8a1, 0xa81a664b, 0xc24b8b70, 0xc76c51a3, 0xd192e819, 0xd6990624, 0xf40e3585, 0x106aa070] ++
  [0x19a4c116, 0x1e376c08, 0x2748774c, 0x34b0bcb5, 0x391c0cb3, 0x4ed8aa4a, 0x5b9cca4f, 0x682e6ff3] ++
  [0x748f82ee, 0x78a5636f, 0x84c87814, 0x8cc70208, 0x90befffa, 0xa4506ceb, 0xbef9a3f7, 0xc67178f2]

/-- The zero bytes of the padding: the least `z` with `L + 1 + z + 8` a multiple of 64 (R202). -/
def shaPadZeros (len : Nat) : Nat := (119 - len % 64) % 64

/-- `pad(msg)` (R202). The rules give it for fewer than 2^61 bytes. For longer messages the model writes the bit length
modulo 2^64 (DESIGN CHOICE, log entry 6). -/
def shaPad (msg : Bytes) : Bytes :=
  msg ++ [0x80] ++ List.replicate (shaPadZeros msg.length) 0 ++
    (List.range 8).map fun t => (BitVec.ofNat 64 (8 * msg.length)).extractLsb' (56 - 8 * t) 8

/-- The first `count` big-endian words of a byte string. -/
def shaWords : (count : Nat) → Bytes → List Word32
  | count + 1, b0 :: b1 :: b2 :: b3 :: rest => (b0 ++ b1 ++ b2 ++ b3) :: shaWords count rest
  | _, _ => []

/-- `W[16..63]` onto a schedule held newest word first: `s1(W[t−2]) + W[t−7] + s0(W[t−15]) + W[t−16]` (R203). -/
def shaExtend : (count : Nat) → List Word32 → List Word32
  | 0, ws => ws
  | count + 1, ws =>
    shaExtend count
      ((shaSmallS1 (ws.getD 1 0) + ws.getD 6 0 + shaSmallS0 (ws.getD 14 0) + ws.getD 15 0) :: ws)

/-- `W[0..63]` of a 64-byte block (R203). -/
def shaSchedule (block : Bytes) : List Word32 := (shaExtend 48 (shaWords 16 block).reverse).reverse

/-- One of the 64 rounds, with `K[t]` and `W[t]` (R203). -/
def shaRound (v : ShaState) (kw : Word32 × Word32) : ShaState :=
  let t1 := v.h + shaBigS1 v.e + shaCh v.e v.f v.g + kw.1 + kw.2
  let t2 := shaBigS0 v.a + shaMaj v.a v.b v.c
  ⟨t1 + t2, v.a, v.b, v.c, v.d + t1, v.e, v.f, v.g⟩

/-- The compression of one block into the hash value (R203). -/
def shaCompress (hv : ShaState) (block : Bytes) : ShaState :=
  let v := (shaK.zip (shaSchedule block)).foldl shaRound hv
  ⟨hv.a + v.a, hv.b + v.b, hv.c + v.c, hv.d + v.d, hv.e + v.e, hv.f + v.f, hv.g + v.g, hv.h + v.h⟩

/-- The blocks of a padded message, in order (R203). -/
def shaBlocks : (count : Nat) → Bytes → ShaState → ShaState
  | 0, _, hv => hv
  | count + 1, bytes, hv => shaBlocks count (bytes.drop 64) (shaCompress hv (bytes.take 64))

/-- The big-endian bytes of a word (R200). -/
def wordBytes (w : Word32) : Bytes := [w.extractLsb' 24 8, w.extractLsb' 16 8, w.extractLsb' 8 8, w.extractLsb' 0 8]

/-- The 32 bytes `H0 ‖ … ‖ H7` (R203). -/
def shaBytes (v : ShaState) : Bytes :=
  wordBytes v.a ++ wordBytes v.b ++ wordBytes v.c ++ wordBytes v.d ++
    wordBytes v.e ++ wordBytes v.f ++ wordBytes v.g ++ wordBytes v.h

/-- `SHA256(msg)` (R200 to R203). -/
def sha256 (msg : Bytes) : Bytes :=
  let padded := shaPad msg
  shaBytes (shaBlocks (padded.length / 64) padded shaInit)

/-! ## HMAC-SHA256 -/

/-- The key as one 64-byte block (R204). -/
def hmacKey (key : Bytes) : Bytes :=
  let k0 := if key.length > 64 then sha256 key else key
  k0 ++ List.replicate (64 - k0.length) 0

/-- `HMAC(key, msg)` (R204). -/
def hmac (key msg : Bytes) : Bytes :=
  let k0 := hmacKey key
  sha256 (k0.map (· ^^^ 0x5C) ++ sha256 (k0.map (· ^^^ 0x36) ++ msg))

/-! ## The candidate sequence of RFC 6979 -/

/-- The working buffers `K` and `V` of the derivation (R205). -/
structure NonceState where
  k : Bytes
  v : Bytes
deriving DecidableEq, Repr

/-- One double round with message part `tail`: `K = HMAC(K, V ‖ tail); V = HMAC(K, V)` (R205). -/
def nonceRound (st : NonceState) (tail : Bytes) : NonceState :=
  let k := hmac st.k (st.v ++ tail)
  ⟨k, hmac k st.v⟩

/-- The buffers before the loop: the seeds and the two double rounds (R205). `n` is the group order. The rule gives the
sequence for a secret `d` in `[1, n)`. For another `d` the model evaluates the same formula, and so do `KGEN` and `SIGN` on
a key slot that holds one, which no run reaches (DESIGN CHOICE, log entry 6). -/
def nonceSeed (n d z : Nat) : NonceState :=
  let seed := be32Nat d ++ be32Nat (z % n)
  nonceRound (nonceRound ⟨List.replicate 32 0x00, List.replicate 32 0x01⟩ (0x00 :: seed)) (0x01 :: seed)

/-- `V = HMAC(K, V)` at the head of the loop (R205). -/
def nonceHead (st : NonceState) : NonceState := ⟨st.k, hmac st.k st.v⟩

/-- The buffers at the head of iteration `j` of the loop, counted from 0 (R205). -/
def nonceAt (n d z : Nat) : Nat → NonceState
  | 0 => nonceHead (nonceSeed n d z)
  | j + 1 => nonceHead (nonceRound (nonceAt n d z j) [0x00])

/-- `c = INT(V)` of iteration `j` (R205). -/
def nonceCandidate (n d z j : Nat) : Nat := intOf (nonceAt n d z j).v

/-- The acceptance test `1 ≤ c < n` (R205). -/
def nonceAccepted (n c : Nat) : Bool := decide (1 ≤ c ∧ c < n)

end Sys2Proof.Machine
end

