-- ==== Sys2Proof/Machine/Ecdsa.lean ====
section
/-! DEFINITION. The key slot and ECDSA commands `KEYLOAD KEYPUB KEYCLR KGEN SIGN VERIFY` (R220 to R228). -/

namespace Sys2Proof.Machine

/-! ## The key slot -/

/-- The private key object of a secret: the public point is computed here, once (R26, R221). -/
def keyOf (c : Curve) (d : Word256) : KeySlot := ⟨true, d, scalarMul c d.toNat (generator c)⟩

/-- `KEYLOAD` (R221) -/
def execKeyload (ra : Reg) (s : State) : Result :=
  if s.num ra = 0 ∨ Config.curve.n ≤ s.num ra then raiseError .keyRange s
  else complete (s.setKey (keyOf Config.curve (s.reg ra)))

/-- `KEYPUB` (R222) -/
def execKeypub (pd : PReg) (s : State) : Result :=
  if s.key.valid then complete ((s.setPoint pd s.key.pub).setInf false) else raiseError .noKey s

/-- `KEYCLR` (R223) -/
def execKeyclr (s : State) : Result := complete (s.setKey .empty)

/-! ## Nonce and signature -/

/-- `KGEN` (R225): the first accepted candidate. A rejected candidate leaves the command running (R351; log entry 3). -/
def execKgen (rd ra : Reg) (s : State) : Result :=
  if s.key.valid then
    let k := nonceCandidate Config.curve.n s.key.secret.toNat (s.num ra) s.nonceTry
    if nonceAccepted Config.curve.n k then complete (s.setReg rd (BitVec.ofNat 256 k)) else nextCandidate s
  else raiseError .noKey s

/-- `x mod n` of an affine point; `Infinity` has none (R224, R227). -/
def xModN (c : Curve) : Point → Option Nat
  | .infinity => none
  | .affine x _ => some (x.toNat % c.n)

/-- `s = (z + r·d) · k⁻¹ mod n` (R224). -/
def signatureS (c : Curve) (d z r k : Nat) : Nat :=
  fmul (fadd (z % c.n) (fmul r d c.n) c.n) (finv k c.n) c.n

/-- Low-S normalisation (R224). -/
def lowS (c : Curve) (sv : Nat) : Nat := if (c.n - 1) / 2 < sv then c.n - sv else sv

/-- One pass of the loop of R224 with nonce `k`; `none` is `continue`. `k·G` is never `Infinity` for `0 < k < n`, so the
first case of `xModN` is not met there. -/
def signWith (c : Curve) (d z k : Nat) : Option (Nat × Nat) :=
  match xModN c (scalarMul c k (generator c)) with
  | none => none
  | some r =>
    if r = 0 then none
    else if signatureS c d z r k = 0 then none
    else some (r, lowS c (signatureS c d z r k))

/-- The loop of R224 at one candidate of R205: passed over when the candidate is out of range or gives no signature. -/
def signAt (c : Curve) (d z j : Nat) : Option (Nat × Nat) :=
  let k := nonceCandidate c.n d z j
  if nonceAccepted c.n k then signWith c d z k else none

/-- `SIGN` (R226): both halves are written together. A candidate passed over leaves the command running (R351; log
entry 3). -/
def execSign (rd re ra : Reg) (s : State) : Result :=
  if s.key.valid then
    match signAt Config.curve s.key.secret.toNat (s.num ra) s.nonceTry with
    | none => nextCandidate s
    | some (r, sv) => complete ((s.setReg rd (BitVec.ofNat 256 r)).setReg re (BitVec.ofNat 256 sv))
  else raiseError .noKey s

/-! ## Verification -/

/-- `ecdsa_verify(Q, z, r, s)` (R227): a boolean, never an error. -/
def ecdsaVerify (c : Curve) (q : Point) (z r sv : Nat) : Bool :=
  if r = 0 ∨ c.n ≤ r ∨ sv = 0 ∨ c.n ≤ sv then false
  else
    let w := finv sv c.n
    let u := z * w % c.n
    let v := fmul r w c.n
    match xModN c (pointAdd c (scalarMul c u (generator c)) (scalarMul c v q)) with
    | none => false
    | some t => t == r

/-- `VERIFY` (R228) -/
def execVerify (pa : PReg) (ra rb rc : Reg) (s : State) : Result :=
  complete (s.setV (ecdsaVerify Config.curve (s.point pa) (s.num ra) (s.num rb) (s.num rc)))

end Sys2Proof.Machine
end

