-- ==== Sys2Proof/Machine/Points.lean ====
section
/-! DEFINITION. The point commands `PSET PINF PMOV PADD PMUL PGETX PGETY PEQ` (R156 to R163). -/

namespace Sys2Proof.Machine

/-- `PSET` (R156): range, then the curve equation. -/
def execPset (pd : PReg) (ra rb : Reg) (s : State) : Result :=
  if s.inRange Config.curve.p [ra, rb] then
    if onCurve Config.curve (s.num ra) (s.num rb) then
      complete ((s.setPoint pd (.affine (s.reg ra) (s.reg rb))).setInf false)
    else raiseError .pointNotOnCurve s
  else raiseError .operandRange s

/-- `PINF` (R157) -/
def execPinf (pd : PReg) (s : State) : Result := complete ((s.setPoint pd .infinity).setInf true)

/-- `PMOV` (R158) -/
def execPmov (pd pa : PReg) (s : State) : Result := completePoint pd (s.point pa) s

/-- `PADD` (R159) -/
def execPadd (pd pa pb : PReg) (s : State) : Result :=
  completePoint pd (pointAdd Config.curve (s.point pa) (s.point pb)) s

/-- `PMUL` (R160): the scalar is neither range-checked nor reduced. -/
def execPmul (pd pa : PReg) (rb : Reg) (s : State) : Result :=
  completePoint pd (scalarMul Config.curve (s.num rb) (s.point pa)) s

/-- The shape of `PGETX` and `PGETY`: a coordinate of an affine point, and `ODD` from its `y` (R161, R162). -/
def readCoordinate (coord : Word256 → Word256 → Word256) (rd : Reg) (pa : PReg) (s : State) : Result :=
  match s.point pa with
  | .infinity => raiseError .pointAtInfinity s
  | .affine x y => complete ((s.setReg rd (coord x y)).setOdd (isOdd y))

/-- `PGETX` (R161) -/
def execPgetx (rd : Reg) (pa : PReg) (s : State) : Result := readCoordinate (fun x _ => x) rd pa s

/-- `PGETY` (R162) -/
def execPgety (rd : Reg) (pa : PReg) (s : State) : Result := readCoordinate (fun _ y => y) rd pa s

/-- `PEQ` (R163) -/
def execPeq (pa pb : PReg) (s : State) : Result := complete (s.setEq (pointEq (s.point pa) (s.point pb)))

end Sys2Proof.Machine
end

