-- ==== Sys2Proof/Machine/Sec.lean ====
section
/-! DEFINITION. The commands specific to secp256k1, `PLDG` and `PDEC` (R181, R183). -/

namespace Sys2Proof.Machine

/-- `PLDG` (R181) -/
def execPldg (pd : PReg) (s : State) : Result :=
  complete ((s.setPoint pd (generator Config.curve)).setInf false)

/-- `PDEC` (R183): range, then the square root. -/
def execPdec (odd : Bool) (pd : PReg) (ra : Reg) (s : State) : Result :=
  if s.inRange Config.curve.p [ra] then
    match decompress Config.curve (s.num ra) odd with
    | none => raiseError .pointNotOnCurve s
    | some v => complete ((s.setPoint pd v).setInf false)
  else raiseError .operandRange s

end Sys2Proof.Machine
end

