-- ==== Sys2Proof/Machine/System.lean ====
section
/-! DEFINITION. The housekeeping commands `NOP MOV LDI ZEROIZE` (R250 to R253). -/

namespace Sys2Proof.Machine

/-- `NOP` (R250) -/
def execNop (s : State) : Result := complete s

/-- `MOV` (R251): all 256 bits, no range check, no flag. -/
def execMov (rd ra : Reg) (s : State) : Result := complete (s.setReg rd (s.reg ra))

/-- `LDI` (R252): zero-extended, no flag. -/
def execLdi (rd : Reg) (imm : BitVec 16) (s : State) : Result := complete (s.setReg rd (immediate imm))

/-- Every data-holding piece of state cleared (R253). -/
def zeroizeData (s : State) : State :=
  { s with
    regs := Vector.replicate 16 0, points := Vector.replicate 4 .infinity, key := .empty, flags := .clear }

/-- `ZEROIZE` (R253): `CMD`, `IEN` and the other bits of `ISTAT` stay. -/
def execZeroize (s : State) : Result := complete (zeroizeData s)

end Sys2Proof.Machine
end

