-- ==== Sys2Proof/Machine/Dispatch.lean ====
section
/-! DEFINITION. The one dispatch from a command to its meaning: what the engine's completion step does with a decoded
command (R302). -/

namespace Sys2Proof.Machine

def exec (i : Instr) (s : State) : Host.Outcome State Fault Refusal :=
  match i with
  | .nop => Sys2Proof.Machine.execNop s
  | .mov rd ra => Sys2Proof.Machine.execMov rd ra s
  | .ldi rd imm => Sys2Proof.Machine.execLdi rd imm s
  | .zeroize => Sys2Proof.Machine.execZeroize s
  | .fadd m rd ra rb => Sys2Proof.Machine.execFadd m rd ra rb s
  | .fsub m rd ra rb => Sys2Proof.Machine.execFsub m rd ra rb s
  | .fmul m rd ra rb => Sys2Proof.Machine.execFmul m rd ra rb s
  | .fpow m neg rd ra rb => Sys2Proof.Machine.execFpow m neg rd ra rb s
  | .finv m rd ra => Sys2Proof.Machine.execFinv m rd ra s
  | .fdiv m rd ra rb => Sys2Proof.Machine.execFdiv m rd ra rb s
  | .mred m rd rb => Sys2Proof.Machine.execMred m rd rb s
  | .mredW m rd ra rb => Sys2Proof.Machine.execMredW m rd ra rb s
  | .mull rd ra rb => Sys2Proof.Machine.execMull rd ra rb s
  | .mulh rd ra rb => Sys2Proof.Machine.execMulh rd ra rb s
  | .pset pd ra rb => Sys2Proof.Machine.execPset pd ra rb s
  | .pinf pd => Sys2Proof.Machine.execPinf pd s
  | .pmov pd pa => Sys2Proof.Machine.execPmov pd pa s
  | .padd pd pa pb => Sys2Proof.Machine.execPadd pd pa pb s
  | .pmul pd pa rb => Sys2Proof.Machine.execPmul pd pa rb s
  | .pgetx rd pa => Sys2Proof.Machine.execPgetx rd pa s
  | .pgety rd pa => Sys2Proof.Machine.execPgety rd pa s
  | .peq pa pb => Sys2Proof.Machine.execPeq pa pb s
  | .pldg pd => Sys2Proof.Machine.execPldg pd s
  | .pdec odd pd ra => Sys2Proof.Machine.execPdec odd pd ra s
  | .keyload ra => Sys2Proof.Machine.execKeyload ra s
  | .keypub pd => Sys2Proof.Machine.execKeypub pd s
  | .keyclr => Sys2Proof.Machine.execKeyclr s
  | .kgen rd ra => Sys2Proof.Machine.execKgen rd ra s
  | .sign rd re ra => Sys2Proof.Machine.execSign rd re ra s
  | .verify pa ra rb rc => Sys2Proof.Machine.execVerify pa ra rb rc s

end Sys2Proof.Machine
end

