-- ==== Sys2Proof/Machine/HostPort.lean ====
section
/-! DEFINITION. The host port: `MemRead` and `MemWrite` on the window (R62, R63), refusal while engine-owned (R70), and
the same accesses by bus address (R72). -/

namespace Sys2Proof.Machine

/-- The access is one the port carries: 4 bytes, aligned, inside the window (R62, R66). -/
def validAccess (off size : Nat) : Bool := decide (size = 4 ∧ off % 4 = 0 ∧ off < 0x400)

/-- The general register whose image holds offset `off`, for `0x200 ≤ off < 0x400` (R62, R64). At other offsets, which hold
no image, the value means nothing: the register number is taken modulo 16 (DESIGN CHOICE, log entry 7). -/
def imageReg (off : Nat) : Reg := Fin.ofNat 16 ((off - 0x200) / 0x20)

/-- The word of that image at offset `off` (R62, R64). -/
def imageWord (off : Nat) : Nat := (off - 0x200) % 0x20 / 4

/-- The word a read returns while the register file is the host's (R62): what the window shows at an aligned offset below
0x400. At other offsets, which R61 does not list, the formula goes on (DESIGN CHOICE, log entry 7); `memRead` answers the
bus error there. -/
def windowWord (s : State) (off : Nat) : Word32 :=
  if off = 0x000 then Config.idWord
  else if off = 0x004 then 0
  else if off = 0x008 then s.statusWord
  else if off = 0x00C then s.cmd
  else if off = 0x010 then s.ien.setWidth 32
  else if off = 0x014 then s.istat.setWidth 32
  else if off < 0x200 then 0
  else wordOf (s.reg (imageReg off)) (imageWord off)

/-- `MemRead(off, size)` (R62): the reply, and the state after it. -/
def memRead (off size : Nat) (s : State) : Reply × State :=
  if validAccess off size then
    if 0x200 ≤ off ∧ s.owned then (.data 0, s.pend ovrI) else (.data (windowWord s off), s)
  else (.busError, s)

/-- `r[i][32j+31 : 32j] <- v` at a register-file offset (R63). -/
def writeImage (off : Nat) (v : Word32) (s : State) : State :=
  s.setReg (imageReg off) (setWord (s.reg (imageReg off)) (imageWord off) v)

/-- The effect of a write at a valid offset (R63). -/
def writeWindow (off : Nat) (v : Word32) (s : State) : State :=
  if off = 0x004 then (if v.getLsbD 0 then softReset s else s)
  else if off = 0x00C then (if s.owned then s.pend ovrI else accept v s)
  else if off = 0x010 then { s with ien := v.setWidth 4 }
  else if off = 0x014 then { s with istat := s.istat &&& ~~~(v.setWidth 4) }
  else if off < 0x200 then s
  else if s.owned then s.pend ovrI
  else writeImage off v s

/-- `MemWrite(off, size, v)` (R63): the reply, and the state after it. -/
def memWrite (off size : Nat) (v : Word32) (s : State) : Reply × State :=
  if validAccess off size then (.ok, writeWindow off v s) else (.busError, s)

/-- The window offset of a bus address, for an address of the window (R60, R72). -/
def busOffset (addr : Nat) : Option Nat :=
  if Config.base ≤ addr ∧ addr < Config.base + 0x400 then some (addr - Config.base) else none

/-- A read at a bus address; outside the window, the bus error of R66 (log entry 5). -/
def busRead (addr size : Nat) (s : State) : Reply × State :=
  match busOffset addr with
  | some off => memRead off size s
  | none => (.busError, s)

/-- A write at a bus address; outside the window, the bus error of R66 (log entry 5). -/
def busWrite (addr size : Nat) (v : Word32) (s : State) : Reply × State :=
  match busOffset addr with
  | some off => memWrite off size v s
  | none => (.busError, s)

/-- Byte `b` of the window on a byte-addressed bus, as it stands (R65(b)): the model's read of one byte, without the
side effect of a refused access. The window ends at 0x400 (R61): from there on the formula shows the bytes of the register
file again, a value that is the model's choice and no byte of K1CORE's (DESIGN CHOICE, log entry 7). -/
def windowByte (s : State) (b : Nat) : Byte := (windowWord s (b - b % 4)).extractLsb' (8 * (b % 4)) 8

end Sys2Proof.Machine
end

