-- ==== Sys2Proof/Machine/Engine.lean ====
section
/-! DEFINITION. One step of the total order of R74: the environment's next event, or the engine's turn (R302). -/

namespace Sys2Proof.Machine

/-- `EngineStep()`: enabled exactly when `BUSY = 1`; the word in `CMD` is decoded and its command run (R302). When the
engine is not enabled its turn passes and nothing changes. -/
def engineTurn (s : State) : Result :=
  if s.busy then
    match decode s.cmd with
    | .error _ => raiseError .illegalCmd s
    | .ok i => exec i s
  else .next s

/-- The state after a host transaction, with the port's answer kept for the host. -/
def answered (r : Reply × State) : Result := .next { r.2 with reply := some r.1 }

/-- One event of the environment (R19, R74). -/
def runEvent (e : Event) (s : State) : Result :=
  match e with
  | .read off size => answered (memRead off size s)
  | .write off size v => answered (memWrite off size v s)
  | .busRead addr size => answered (busRead addr size s)
  | .busWrite addr size v => answered (busWrite addr size v s)
  | .hardReset => .next (hardReset s)
  | .engine => engineTurn s

/-- The next event of the schedule, taken off it; with none left, the engine's turn, so that an accepted command is not
kept waiting for ever (weak fairness, R19; log entry 2). -/
def runNext (s : State) : Result :=
  match s.schedule with
  | [] => engineTurn s
  | e :: rest => runEvent e { s with schedule := rest }

/-- `s` as right after the accept of the word `w` with the engine next to move (R69). -/
def withCommand (w : Word32) (s : State) : State := { accept w s with schedule := .engine :: s.schedule }

end Sys2Proof.Machine
end

