-- ==== Sys2Proof/Machine/Step.lean ====
section
/-! DEFINITION. The step of the machine, and a state whose next step runs a given command word. -/

namespace Sys2Proof.Machine

/-- One step of K1CORE and its environment (R74). -/
def step (s : State) : Host.Outcome State Fault Refusal := runNext s

/-- There is no fetch (R2, R27): a command comes to run by being accepted into `CMD`. This is `s` with the word latched
there as an accept leaves it and the engine next to move (log entry 1). -/
def State.withFetchWord (s : State) (nbits w : Nat) : State := withCommand (BitVec.ofNat 32 (w % 2 ^ nbits)) s

end Sys2Proof.Machine
end

