-- ==== Sys2Proof/Laws/State.lean ====
section
/-! SUPPORT. One lemma per field per update of the state, each true by definition, so that no proof unfolds an update. -/

namespace Sys2Proof.Machine

section
variable (s : State)

/-! ## `State.setReg` -/

@[simp] theorem State.setReg_regs (i : Reg) (v : Word256) : (s.setReg i v).regs = s.regs.set i.val v i.isLt := rfl
@[simp] theorem State.setReg_points (i : Reg) (v : Word256) : (s.setReg i v).points = s.points := rfl
@[simp] theorem State.setReg_key (i : Reg) (v : Word256) : (s.setReg i v).key = s.key := rfl
@[simp] theorem State.setReg_cmd (i : Reg) (v : Word256) : (s.setReg i v).cmd = s.cmd := rfl
@[simp] theorem State.setReg_flags (i : Reg) (v : Word256) : (s.setReg i v).flags = s.flags := rfl
@[simp] theorem State.setReg_busy (i : Reg) (v : Word256) : (s.setReg i v).busy = s.busy := rfl
@[simp] theorem State.setReg_done (i : Reg) (v : Word256) : (s.setReg i v).done = s.done := rfl
@[simp] theorem State.setReg_err (i : Reg) (v : Word256) : (s.setReg i v).err = s.err := rfl
@[simp] theorem State.setReg_fatal (i : Reg) (v : Word256) : (s.setReg i v).fatal = s.fatal := rfl
@[simp] theorem State.setReg_code (i : Reg) (v : Word256) : (s.setReg i v).code = s.code := rfl
@[simp] theorem State.setReg_ien (i : Reg) (v : Word256) : (s.setReg i v).ien = s.ien := rfl
@[simp] theorem State.setReg_istat (i : Reg) (v : Word256) : (s.setReg i v).istat = s.istat := rfl
@[simp] theorem State.setReg_nonceTry (i : Reg) (v : Word256) : (s.setReg i v).nonceTry = s.nonceTry := rfl
@[simp] theorem State.setReg_schedule (i : Reg) (v : Word256) : (s.setReg i v).schedule = s.schedule := rfl
@[simp] theorem State.setReg_reply (i : Reg) (v : Word256) : (s.setReg i v).reply = s.reply := rfl

/-! ## `State.setPoint` -/

@[simp] theorem State.setPoint_regs (i : PReg) (v : Point) : (s.setPoint i v).regs = s.regs := rfl
@[simp] theorem State.setPoint_points (i : PReg) (v : Point) : (s.setPoint i v).points = s.points.set i.val v i.isLt := rfl
@[simp] theorem State.setPoint_key (i : PReg) (v : Point) : (s.setPoint i v).key = s.key := rfl
@[simp] theorem State.setPoint_cmd (i : PReg) (v : Point) : (s.setPoint i v).cmd = s.cmd := rfl
@[simp] theorem State.setPoint_flags (i : PReg) (v : Point) : (s.setPoint i v).flags = s.flags := rfl
@[simp] theorem State.setPoint_busy (i : PReg) (v : Point) : (s.setPoint i v).busy = s.busy := rfl
@[simp] theorem State.setPoint_done (i : PReg) (v : Point) : (s.setPoint i v).done = s.done := rfl
@[simp] theorem State.setPoint_err (i : PReg) (v : Point) : (s.setPoint i v).err = s.err := rfl
@[simp] theorem State.setPoint_fatal (i : PReg) (v : Point) : (s.setPoint i v).fatal = s.fatal := rfl
@[simp] theorem State.setPoint_code (i : PReg) (v : Point) : (s.setPoint i v).code = s.code := rfl
@[simp] theorem State.setPoint_ien (i : PReg) (v : Point) : (s.setPoint i v).ien = s.ien := rfl
@[simp] theorem State.setPoint_istat (i : PReg) (v : Point) : (s.setPoint i v).istat = s.istat := rfl
@[simp] theorem State.setPoint_nonceTry (i : PReg) (v : Point) : (s.setPoint i v).nonceTry = s.nonceTry := rfl
@[simp] theorem State.setPoint_schedule (i : PReg) (v : Point) : (s.setPoint i v).schedule = s.schedule := rfl
@[simp] theorem State.setPoint_reply (i : PReg) (v : Point) : (s.setPoint i v).reply = s.reply := rfl

/-! ## `State.setKey` -/

@[simp] theorem State.setKey_regs (k : KeySlot) : (s.setKey k).regs = s.regs := rfl
@[simp] theorem State.setKey_points (k : KeySlot) : (s.setKey k).points = s.points := rfl
@[simp] theorem State.setKey_key (k : KeySlot) : (s.setKey k).key = k := rfl
@[simp] theorem State.setKey_cmd (k : KeySlot) : (s.setKey k).cmd = s.cmd := rfl
@[simp] theorem State.setKey_flags (k : KeySlot) : (s.setKey k).flags = s.flags := rfl
@[simp] theorem State.setKey_busy (k : KeySlot) : (s.setKey k).busy = s.busy := rfl
@[simp] theorem State.setKey_done (k : KeySlot) : (s.setKey k).done = s.done := rfl
@[simp] theorem State.setKey_err (k : KeySlot) : (s.setKey k).err = s.err := rfl
@[simp] theorem State.setKey_fatal (k : KeySlot) : (s.setKey k).fatal = s.fatal := rfl
@[simp] theorem State.setKey_code (k : KeySlot) : (s.setKey k).code = s.code := rfl
@[simp] theorem State.setKey_ien (k : KeySlot) : (s.setKey k).ien = s.ien := rfl
@[simp] theorem State.setKey_istat (k : KeySlot) : (s.setKey k).istat = s.istat := rfl
@[simp] theorem State.setKey_nonceTry (k : KeySlot) : (s.setKey k).nonceTry = s.nonceTry := rfl
@[simp] theorem State.setKey_schedule (k : KeySlot) : (s.setKey k).schedule = s.schedule := rfl
@[simp] theorem State.setKey_reply (k : KeySlot) : (s.setKey k).reply = s.reply := rfl

/-! ## `State.setZ` -/

@[simp] theorem State.setZ_regs (b : Bool) : (s.setZ b).regs = s.regs := rfl
@[simp] theorem State.setZ_points (b : Bool) : (s.setZ b).points = s.points := rfl
@[simp] theorem State.setZ_key (b : Bool) : (s.setZ b).key = s.key := rfl
@[simp] theorem State.setZ_cmd (b : Bool) : (s.setZ b).cmd = s.cmd := rfl
@[simp] theorem State.setZ_flags (b : Bool) : (s.setZ b).flags = { s.flags with z := b } := rfl
@[simp] theorem State.setZ_busy (b : Bool) : (s.setZ b).busy = s.busy := rfl
@[simp] theorem State.setZ_done (b : Bool) : (s.setZ b).done = s.done := rfl
@[simp] theorem State.setZ_err (b : Bool) : (s.setZ b).err = s.err := rfl
@[simp] theorem State.setZ_fatal (b : Bool) : (s.setZ b).fatal = s.fatal := rfl
@[simp] theorem State.setZ_code (b : Bool) : (s.setZ b).code = s.code := rfl
@[simp] theorem State.setZ_ien (b : Bool) : (s.setZ b).ien = s.ien := rfl
@[simp] theorem State.setZ_istat (b : Bool) : (s.setZ b).istat = s.istat := rfl
@[simp] theorem State.setZ_nonceTry (b : Bool) : (s.setZ b).nonceTry = s.nonceTry := rfl
@[simp] theorem State.setZ_schedule (b : Bool) : (s.setZ b).schedule = s.schedule := rfl
@[simp] theorem State.setZ_reply (b : Bool) : (s.setZ b).reply = s.reply := rfl

/-! ## `State.setInf` -/

@[simp] theorem State.setInf_regs (b : Bool) : (s.setInf b).regs = s.regs := rfl
@[simp] theorem State.setInf_points (b : Bool) : (s.setInf b).points = s.points := rfl
@[simp] theorem State.setInf_key (b : Bool) : (s.setInf b).key = s.key := rfl
@[simp] theorem State.setInf_cmd (b : Bool) : (s.setInf b).cmd = s.cmd := rfl
@[simp] theorem State.setInf_flags (b : Bool) : (s.setInf b).flags = { s.flags with inf := b } := rfl
@[simp] theorem State.setInf_busy (b : Bool) : (s.setInf b).busy = s.busy := rfl
@[simp] theorem State.setInf_done (b : Bool) : (s.setInf b).done = s.done := rfl
@[simp] theorem State.setInf_err (b : Bool) : (s.setInf b).err = s.err := rfl
@[simp] theorem State.setInf_fatal (b : Bool) : (s.setInf b).fatal = s.fatal := rfl
@[simp] theorem State.setInf_code (b : Bool) : (s.setInf b).code = s.code := rfl
@[simp] theorem State.setInf_ien (b : Bool) : (s.setInf b).ien = s.ien := rfl
@[simp] theorem State.setInf_istat (b : Bool) : (s.setInf b).istat = s.istat := rfl
@[simp] theorem State.setInf_nonceTry (b : Bool) : (s.setInf b).nonceTry = s.nonceTry := rfl
@[simp] theorem State.setInf_schedule (b : Bool) : (s.setInf b).schedule = s.schedule := rfl
@[simp] theorem State.setInf_reply (b : Bool) : (s.setInf b).reply = s.reply := rfl

/-! ## `State.setOdd` -/

@[simp] theorem State.setOdd_regs (b : Bool) : (s.setOdd b).regs = s.regs := rfl
@[simp] theorem State.setOdd_points (b : Bool) : (s.setOdd b).points = s.points := rfl
@[simp] theorem State.setOdd_key (b : Bool) : (s.setOdd b).key = s.key := rfl
@[simp] theorem State.setOdd_cmd (b : Bool) : (s.setOdd b).cmd = s.cmd := rfl
@[simp] theorem State.setOdd_flags (b : Bool) : (s.setOdd b).flags = { s.flags with odd := b } := rfl
@[simp] theorem State.setOdd_busy (b : Bool) : (s.setOdd b).busy = s.busy := rfl
@[simp] theorem State.setOdd_done (b : Bool) : (s.setOdd b).done = s.done := rfl
@[simp] theorem State.setOdd_err (b : Bool) : (s.setOdd b).err = s.err := rfl
@[simp] theorem State.setOdd_fatal (b : Bool) : (s.setOdd b).fatal = s.fatal := rfl
@[simp] theorem State.setOdd_code (b : Bool) : (s.setOdd b).code = s.code := rfl
@[simp] theorem State.setOdd_ien (b : Bool) : (s.setOdd b).ien = s.ien := rfl
@[simp] theorem State.setOdd_istat (b : Bool) : (s.setOdd b).istat = s.istat := rfl
@[simp] theorem State.setOdd_nonceTry (b : Bool) : (s.setOdd b).nonceTry = s.nonceTry := rfl
@[simp] theorem State.setOdd_schedule (b : Bool) : (s.setOdd b).schedule = s.schedule := rfl
@[simp] theorem State.setOdd_reply (b : Bool) : (s.setOdd b).reply = s.reply := rfl

/-! ## `State.setEq` -/

@[simp] theorem State.setEq_regs (b : Bool) : (s.setEq b).regs = s.regs := rfl
@[simp] theorem State.setEq_points (b : Bool) : (s.setEq b).points = s.points := rfl
@[simp] theorem State.setEq_key (b : Bool) : (s.setEq b).key = s.key := rfl
@[simp] theorem State.setEq_cmd (b : Bool) : (s.setEq b).cmd = s.cmd := rfl
@[simp] theorem State.setEq_flags (b : Bool) : (s.setEq b).flags = { s.flags with eq := b } := rfl
@[simp] theorem State.setEq_busy (b : Bool) : (s.setEq b).busy = s.busy := rfl
@[simp] theorem State.setEq_done (b : Bool) : (s.setEq b).done = s.done := rfl
@[simp] theorem State.setEq_err (b : Bool) : (s.setEq b).err = s.err := rfl
@[simp] theorem State.setEq_fatal (b : Bool) : (s.setEq b).fatal = s.fatal := rfl
@[simp] theorem State.setEq_code (b : Bool) : (s.setEq b).code = s.code := rfl
@[simp] theorem State.setEq_ien (b : Bool) : (s.setEq b).ien = s.ien := rfl
@[simp] theorem State.setEq_istat (b : Bool) : (s.setEq b).istat = s.istat := rfl
@[simp] theorem State.setEq_nonceTry (b : Bool) : (s.setEq b).nonceTry = s.nonceTry := rfl
@[simp] theorem State.setEq_schedule (b : Bool) : (s.setEq b).schedule = s.schedule := rfl
@[simp] theorem State.setEq_reply (b : Bool) : (s.setEq b).reply = s.reply := rfl

/-! ## `State.setV` -/

@[simp] theorem State.setV_regs (b : Bool) : (s.setV b).regs = s.regs := rfl
@[simp] theorem State.setV_points (b : Bool) : (s.setV b).points = s.points := rfl
@[simp] theorem State.setV_key (b : Bool) : (s.setV b).key = s.key := rfl
@[simp] theorem State.setV_cmd (b : Bool) : (s.setV b).cmd = s.cmd := rfl
@[simp] theorem State.setV_flags (b : Bool) : (s.setV b).flags = { s.flags with v := b } := rfl
@[simp] theorem State.setV_busy (b : Bool) : (s.setV b).busy = s.busy := rfl
@[simp] theorem State.setV_done (b : Bool) : (s.setV b).done = s.done := rfl
@[simp] theorem State.setV_err (b : Bool) : (s.setV b).err = s.err := rfl
@[simp] theorem State.setV_fatal (b : Bool) : (s.setV b).fatal = s.fatal := rfl
@[simp] theorem State.setV_code (b : Bool) : (s.setV b).code = s.code := rfl
@[simp] theorem State.setV_ien (b : Bool) : (s.setV b).ien = s.ien := rfl
@[simp] theorem State.setV_istat (b : Bool) : (s.setV b).istat = s.istat := rfl
@[simp] theorem State.setV_nonceTry (b : Bool) : (s.setV b).nonceTry = s.nonceTry := rfl
@[simp] theorem State.setV_schedule (b : Bool) : (s.setV b).schedule = s.schedule := rfl
@[simp] theorem State.setV_reply (b : Bool) : (s.setV b).reply = s.reply := rfl

/-! ## `State.pend` -/

@[simp] theorem State.pend_regs (bits : BitVec 4) : (s.pend bits).regs = s.regs := rfl
@[simp] theorem State.pend_points (bits : BitVec 4) : (s.pend bits).points = s.points := rfl
@[simp] theorem State.pend_key (bits : BitVec 4) : (s.pend bits).key = s.key := rfl
@[simp] theorem State.pend_cmd (bits : BitVec 4) : (s.pend bits).cmd = s.cmd := rfl
@[simp] theorem State.pend_flags (bits : BitVec 4) : (s.pend bits).flags = s.flags := rfl
@[simp] theorem State.pend_busy (bits : BitVec 4) : (s.pend bits).busy = s.busy := rfl
@[simp] theorem State.pend_done (bits : BitVec 4) : (s.pend bits).done = s.done := rfl
@[simp] theorem State.pend_err (bits : BitVec 4) : (s.pend bits).err = s.err := rfl
@[simp] theorem State.pend_fatal (bits : BitVec 4) : (s.pend bits).fatal = s.fatal := rfl
@[simp] theorem State.pend_code (bits : BitVec 4) : (s.pend bits).code = s.code := rfl
@[simp] theorem State.pend_ien (bits : BitVec 4) : (s.pend bits).ien = s.ien := rfl
@[simp] theorem State.pend_istat (bits : BitVec 4) : (s.pend bits).istat = s.istat ||| bits := rfl
@[simp] theorem State.pend_nonceTry (bits : BitVec 4) : (s.pend bits).nonceTry = s.nonceTry := rfl
@[simp] theorem State.pend_schedule (bits : BitVec 4) : (s.pend bits).schedule = s.schedule := rfl
@[simp] theorem State.pend_reply (bits : BitVec 4) : (s.pend bits).reply = s.reply := rfl

/-! ## `accept` -/

@[simp] theorem accept_regs (w : Word32) : (accept w s).regs = s.regs := rfl
@[simp] theorem accept_points (w : Word32) : (accept w s).points = s.points := rfl
@[simp] theorem accept_key (w : Word32) : (accept w s).key = s.key := rfl
@[simp] theorem accept_cmd (w : Word32) : (accept w s).cmd = w := rfl
@[simp] theorem accept_flags (w : Word32) : (accept w s).flags = s.flags := rfl
@[simp] theorem accept_busy (w : Word32) : (accept w s).busy = true := rfl
@[simp] theorem accept_done (w : Word32) : (accept w s).done = false := rfl
@[simp] theorem accept_err (w : Word32) : (accept w s).err = false := rfl
@[simp] theorem accept_fatal (w : Word32) : (accept w s).fatal = s.fatal := rfl
@[simp] theorem accept_code (w : Word32) : (accept w s).code = .none := rfl
@[simp] theorem accept_ien (w : Word32) : (accept w s).ien = s.ien := rfl
@[simp] theorem accept_istat (w : Word32) : (accept w s).istat = s.istat := rfl
@[simp] theorem accept_nonceTry (w : Word32) : (accept w s).nonceTry = 0 := rfl
@[simp] theorem accept_schedule (w : Word32) : (accept w s).schedule = s.schedule := rfl
@[simp] theorem accept_reply (w : Word32) : (accept w s).reply = s.reply := rfl

/-! ## `completeOk` -/

@[simp] theorem completeOk_regs : (completeOk s).regs = s.regs := rfl
@[simp] theorem completeOk_points : (completeOk s).points = s.points := rfl
@[simp] theorem completeOk_key : (completeOk s).key = s.key := rfl
@[simp] theorem completeOk_cmd : (completeOk s).cmd = s.cmd := rfl
@[simp] theorem completeOk_flags : (completeOk s).flags = s.flags := rfl
@[simp] theorem completeOk_busy : (completeOk s).busy = false := rfl
@[simp] theorem completeOk_done : (completeOk s).done = true := rfl
@[simp] theorem completeOk_err : (completeOk s).err = s.err := rfl
@[simp] theorem completeOk_fatal : (completeOk s).fatal = s.fatal := rfl
@[simp] theorem completeOk_code : (completeOk s).code = s.code := rfl
@[simp] theorem completeOk_ien : (completeOk s).ien = s.ien := rfl
@[simp] theorem completeOk_istat : (completeOk s).istat = s.istat ||| doneI := rfl
@[simp] theorem completeOk_nonceTry : (completeOk s).nonceTry = 0 := rfl
@[simp] theorem completeOk_schedule : (completeOk s).schedule = s.schedule := rfl
@[simp] theorem completeOk_reply : (completeOk s).reply = s.reply := rfl

/-! ## `completeError` -/

@[simp] theorem completeError_regs (c : Code) : (completeError c s).regs = s.regs := rfl
@[simp] theorem completeError_points (c : Code) : (completeError c s).points = s.points := rfl
@[simp] theorem completeError_key (c : Code) : (completeError c s).key = s.key := rfl
@[simp] theorem completeError_cmd (c : Code) : (completeError c s).cmd = s.cmd := rfl
@[simp] theorem completeError_flags (c : Code) : (completeError c s).flags = s.flags := rfl
@[simp] theorem completeError_busy (c : Code) : (completeError c s).busy = false := rfl
@[simp] theorem completeError_done (c : Code) : (completeError c s).done = true := rfl
@[simp] theorem completeError_err (c : Code) : (completeError c s).err = true := rfl
@[simp] theorem completeError_fatal (c : Code) : (completeError c s).fatal = s.fatal := rfl
@[simp] theorem completeError_code (c : Code) : (completeError c s).code = c := rfl
@[simp] theorem completeError_ien (c : Code) : (completeError c s).ien = s.ien := rfl
@[simp] theorem completeError_istat (c : Code) : (completeError c s).istat = s.istat ||| (doneI ||| errI) := rfl
@[simp] theorem completeError_nonceTry (c : Code) : (completeError c s).nonceTry = 0 := rfl
@[simp] theorem completeError_schedule (c : Code) : (completeError c s).schedule = s.schedule := rfl
@[simp] theorem completeError_reply (c : Code) : (completeError c s).reply = s.reply := rfl

/-! ## `enterFatal` -/

@[simp] theorem enterFatal_regs (c : Code) : (enterFatal c s).regs = s.regs := rfl
@[simp] theorem enterFatal_points (c : Code) : (enterFatal c s).points = s.points := rfl
@[simp] theorem enterFatal_key (c : Code) : (enterFatal c s).key = s.key := rfl
@[simp] theorem enterFatal_cmd (c : Code) : (enterFatal c s).cmd = s.cmd := rfl
@[simp] theorem enterFatal_flags (c : Code) : (enterFatal c s).flags = s.flags := rfl
@[simp] theorem enterFatal_busy (c : Code) : (enterFatal c s).busy = false := rfl
@[simp] theorem enterFatal_done (c : Code) : (enterFatal c s).done = true := rfl
@[simp] theorem enterFatal_err (c : Code) : (enterFatal c s).err = false := rfl
@[simp] theorem enterFatal_fatal (c : Code) : (enterFatal c s).fatal = true := rfl
@[simp] theorem enterFatal_code (c : Code) : (enterFatal c s).code = c := rfl
@[simp] theorem enterFatal_ien (c : Code) : (enterFatal c s).ien = s.ien := rfl
@[simp] theorem enterFatal_istat (c : Code) : (enterFatal c s).istat = s.istat ||| (doneI ||| fatalI) := rfl
@[simp] theorem enterFatal_nonceTry (c : Code) : (enterFatal c s).nonceTry = 0 := rfl
@[simp] theorem enterFatal_schedule (c : Code) : (enterFatal c s).schedule = s.schedule := rfl
@[simp] theorem enterFatal_reply (c : Code) : (enterFatal c s).reply = s.reply := rfl

/-! ## `zeroizeData` -/

@[simp] theorem zeroizeData_regs : (zeroizeData s).regs = Vector.replicate 16 0 := rfl
@[simp] theorem zeroizeData_points : (zeroizeData s).points = Vector.replicate 4 .infinity := rfl
@[simp] theorem zeroizeData_key : (zeroizeData s).key = .empty := rfl
@[simp] theorem zeroizeData_cmd : (zeroizeData s).cmd = s.cmd := rfl
@[simp] theorem zeroizeData_flags : (zeroizeData s).flags = .clear := rfl
@[simp] theorem zeroizeData_busy : (zeroizeData s).busy = s.busy := rfl
@[simp] theorem zeroizeData_done : (zeroizeData s).done = s.done := rfl
@[simp] theorem zeroizeData_err : (zeroizeData s).err = s.err := rfl
@[simp] theorem zeroizeData_fatal : (zeroizeData s).fatal = s.fatal := rfl
@[simp] theorem zeroizeData_code : (zeroizeData s).code = s.code := rfl
@[simp] theorem zeroizeData_ien : (zeroizeData s).ien = s.ien := rfl
@[simp] theorem zeroizeData_istat : (zeroizeData s).istat = s.istat := rfl
@[simp] theorem zeroizeData_nonceTry : (zeroizeData s).nonceTry = s.nonceTry := rfl
@[simp] theorem zeroizeData_schedule : (zeroizeData s).schedule = s.schedule := rfl
@[simp] theorem zeroizeData_reply : (zeroizeData s).reply = s.reply := rfl

/-! ## Reset -/

@[simp] theorem resetAll_regs : (resetAll s).regs = State.reset.regs := rfl
@[simp] theorem resetAll_points : (resetAll s).points = State.reset.points := rfl
@[simp] theorem resetAll_key : (resetAll s).key = State.reset.key := rfl
@[simp] theorem resetAll_cmd : (resetAll s).cmd = State.reset.cmd := rfl
@[simp] theorem resetAll_flags : (resetAll s).flags = State.reset.flags := rfl
@[simp] theorem resetAll_busy : (resetAll s).busy = State.reset.busy := rfl
@[simp] theorem resetAll_done : (resetAll s).done = State.reset.done := rfl
@[simp] theorem resetAll_err : (resetAll s).err = State.reset.err := rfl
@[simp] theorem resetAll_fatal : (resetAll s).fatal = State.reset.fatal := rfl
@[simp] theorem resetAll_code : (resetAll s).code = State.reset.code := rfl
@[simp] theorem resetAll_ien : (resetAll s).ien = State.reset.ien := rfl
@[simp] theorem resetAll_istat : (resetAll s).istat = State.reset.istat := rfl
@[simp] theorem resetAll_nonceTry : (resetAll s).nonceTry = State.reset.nonceTry := rfl
@[simp] theorem resetAll_schedule : (resetAll s).schedule = s.schedule := rfl
@[simp] theorem resetAll_reply : (resetAll s).reply = s.reply := rfl
@[simp] theorem softReset_regs : (softReset s).regs = State.reset.regs := rfl
@[simp] theorem softReset_points : (softReset s).points = State.reset.points := rfl
@[simp] theorem softReset_key : (softReset s).key = State.reset.key := rfl
@[simp] theorem softReset_cmd : (softReset s).cmd = State.reset.cmd := rfl
@[simp] theorem softReset_flags : (softReset s).flags = State.reset.flags := rfl
@[simp] theorem softReset_busy : (softReset s).busy = State.reset.busy := rfl
@[simp] theorem softReset_done : (softReset s).done = State.reset.done := rfl
@[simp] theorem softReset_err : (softReset s).err = State.reset.err := rfl
@[simp] theorem softReset_fatal : (softReset s).fatal = State.reset.fatal := rfl
@[simp] theorem softReset_code : (softReset s).code = State.reset.code := rfl
@[simp] theorem softReset_ien : (softReset s).ien = State.reset.ien := rfl
@[simp] theorem softReset_istat : (softReset s).istat = State.reset.istat := rfl
@[simp] theorem softReset_nonceTry : (softReset s).nonceTry = State.reset.nonceTry := rfl
@[simp] theorem softReset_schedule : (softReset s).schedule = s.schedule := rfl
@[simp] theorem softReset_reply : (softReset s).reply = s.reply := rfl
@[simp] theorem hardReset_regs : (hardReset s).regs = State.reset.regs := rfl
@[simp] theorem hardReset_points : (hardReset s).points = State.reset.points := rfl
@[simp] theorem hardReset_key : (hardReset s).key = State.reset.key := rfl
@[simp] theorem hardReset_cmd : (hardReset s).cmd = State.reset.cmd := rfl
@[simp] theorem hardReset_flags : (hardReset s).flags = State.reset.flags := rfl
@[simp] theorem hardReset_busy : (hardReset s).busy = State.reset.busy := rfl
@[simp] theorem hardReset_done : (hardReset s).done = State.reset.done := rfl
@[simp] theorem hardReset_err : (hardReset s).err = State.reset.err := rfl
@[simp] theorem hardReset_fatal : (hardReset s).fatal = State.reset.fatal := rfl
@[simp] theorem hardReset_code : (hardReset s).code = State.reset.code := rfl
@[simp] theorem hardReset_ien : (hardReset s).ien = State.reset.ien := rfl
@[simp] theorem hardReset_istat : (hardReset s).istat = State.reset.istat := rfl
@[simp] theorem hardReset_nonceTry : (hardReset s).nonceTry = State.reset.nonceTry := rfl
@[simp] theorem hardReset_schedule : (hardReset s).schedule = s.schedule := rfl
@[simp] theorem hardReset_reply : (hardReset s).reply = s.reply := rfl

end

end Sys2Proof.Machine
end

