-- ==== Sys2Proof/Safety.lean ====
section
/-! DEFINITION. The terms in which claims are made: how a command can end (R300), what a command may change (R22, R25,
R26, R30, R301), which words are illegal by the list of R97, what a host can do to an engine-owned block (R70), which
event a step is (R74), the invariant of the reachable states (R24, R26, R33), and the curve as a group of points over a field (R152). -/

namespace Sys2Proof.Machine

/-! ## Ends of a command -/

/-- `t` is `s` after a successful completion, as far as everything but the data goes (R304). -/
structure Succeeded (s t : State) : Prop where
  busy : t.busy = false
  done : t.done = true
  err : t.err = s.err
  fatal : t.fatal = s.fatal
  code : t.code = s.code
  istat : t.istat = s.istat ||| 1
  cmd : t.cmd = s.cmd
  ien : t.ien = s.ien
  nonceTry : t.nonceTry = 0
  schedule : t.schedule = s.schedule
  reply : t.reply = s.reply

/-- No register, point register, key-slot field or flag differs (R303). -/
structure SameData (s t : State) : Prop where
  regs : t.regs = s.regs
  points : t.points = s.points
  key : t.key = s.key
  flags : t.flags = s.flags

/-- `t` is `s` after the recoverable error `c` (R303). -/
structure Failed (c : Code) (s t : State) : Prop where
  data : SameData s t
  busy : t.busy = false
  done : t.done = true
  err : t.err = true
  fatal : t.fatal = s.fatal
  code : t.code = c
  istat : t.istat = s.istat ||| 3
  cmd : t.cmd = s.cmd
  ien : t.ien = s.ien
  nonceTry : t.nonceTry = 0
  schedule : t.schedule = s.schedule
  reply : t.reply = s.reply

/-- `t` is `s` after entering the fatal state with code `c` (R305). -/
structure Died (c : Code) (s t : State) : Prop where
  data : SameData s t
  busy : t.busy = false
  done : t.done = true
  err : t.err = false
  fatal : t.fatal = true
  code : t.code = c
  istat : t.istat = s.istat ||| 5
  cmd : t.cmd = s.cmd
  ien : t.ien = s.ien
  nonceTry : t.nonceTry = 0
  schedule : t.schedule = s.schedule
  reply : t.reply = s.reply

/-- The outcome is a next state of which `Q` holds. -/
def Answers (o : Result) (Q : State → Prop) : Prop := ∃ t, o = .next t ∧ Q t

/-- The command completes from `s`, and `Q` holds of the state after it. -/
def Completes (s : State) (o : Result) (Q : State → Prop) : Prop := Answers o fun t => Succeeded s t ∧ Q t

/-- The command ends from `s` with the recoverable error `c`. -/
def Errs (s : State) (o : Result) (c : Code) : Prop := Answers o (Failed c s)

/-- The command ends from `s` in the fatal state with code `c`. -/
def Dies (s : State) (o : Result) (c : Code) : Prop := Answers o (Died c s)

/-- Nothing differs but the interrupt bits and the model's own schedule and reply: what a host access that is neither an
accept, a register write nor a reset leaves alone (R70). -/
structure SameCore (s t : State) : Prop where
  data : SameData s t
  cmd : t.cmd = s.cmd
  busy : t.busy = s.busy
  done : t.done = s.done
  err : t.err = s.err
  fatal : t.fatal = s.fatal
  code : t.code = s.code
  nonceTry : t.nonceTry = s.nonceTry

/-- Every piece of the block's state is at its reset value; the environment's coming events and the port's last answer
are not state of the block (R41, R341). -/
def IsReset (t : State) : Prop := t = { State.reset with schedule := t.schedule, reply := t.reply }

/-! ## What a command writes -/

/-- Besides flags, only the listed general registers may differ. -/
structure OnlyRegs (written : List Reg) (s t : State) : Prop where
  others : ∀ i, i ∉ written → t.reg i = s.reg i
  points : t.points = s.points
  key : t.key = s.key

/-- Besides flags, only point register `pd` may differ. -/
structure OnlyPoint (pd : PReg) (s t : State) : Prop where
  others : ∀ i, i ≠ pd → t.point i = s.point i
  regs : t.regs = s.regs
  key : t.key = s.key

/-- The command completes with the number `v` in `rd` and `Z` saying whether it is 0; nothing else of the data differs
(R139). -/
def GivesNumber (s : State) (o : Result) (rd : Reg) (v : Nat) : Prop :=
  Completes s o fun t => t.num rd = v ∧ OnlyRegs [rd] s t ∧ t.flags = { s.flags with z := decide (v = 0) }

/-- The command completes with the point `v` in `pd` and `INF` saying whether it is `Infinity`; nothing else of the data
differs (R29). -/
def GivesPoint (s : State) (o : Result) (pd : PReg) (v : Point) : Prop :=
  Completes s o fun t =>
    t.point pd = v ∧ OnlyPoint pd s t ∧ t.flags = { s.flags with inf := decide (v = .infinity) }

/-- The general registers a command names as destinations (R96); all of them for `ZEROIZE` (R253). -/
def regDests : Instr → List Reg
  | .nop => []
  | .mov rd _ => [rd]
  | .ldi rd _ => [rd]
  | .zeroize => List.finRange 16
  | .fadd _ rd _ _ => [rd]
  | .fsub _ rd _ _ => [rd]
  | .fmul _ rd _ _ => [rd]
  | .fpow _ _ rd _ _ => [rd]
  | .finv _ rd _ => [rd]
  | .fdiv _ rd _ _ => [rd]
  | .mred _ rd _ => [rd]
  | .mredW _ rd _ _ => [rd]
  | .mull rd _ _ => [rd]
  | .mulh rd _ _ => [rd]
  | .pset _ _ _ => []
  | .pinf _ => []
  | .pmov _ _ => []
  | .padd _ _ _ => []
  | .pmul _ _ _ => []
  | .pgetx rd _ => [rd]
  | .pgety rd _ => [rd]
  | .peq _ _ => []
  | .pldg _ => []
  | .pdec _ _ _ => []
  | .keyload _ => []
  | .keypub _ => []
  | .keyclr => []
  | .kgen rd _ => [rd]
  | .sign rd re _ => [rd, re]
  | .verify _ _ _ _ => []

/-- The point registers a command may write (R25). -/
def pointDests : Instr → List PReg
  | .zeroize => List.finRange 4
  | .pset pd _ _ => [pd]
  | .pinf pd => [pd]
  | .pmov pd _ => [pd]
  | .padd pd _ _ => [pd]
  | .pmul pd _ _ => [pd]
  | .pldg pd => [pd]
  | .pdec _ pd _ => [pd]
  | .keypub pd => [pd]
  | .nop | .mov _ _ | .ldi _ _ | .fadd _ _ _ _ | .fsub _ _ _ _ | .fmul _ _ _ _ | .fpow _ _ _ _ _ | .finv _ _ _
  | .fdiv _ _ _ _ | .mred _ _ _ | .mredW _ _ _ _ | .mull _ _ _ | .mulh _ _ _ | .pgetx _ _ | .pgety _ _ | .peq _ _
  | .keyload _ | .keyclr | .kgen _ _ | .sign _ _ _ | .verify _ _ _ _ => []

/-- The commands that write the key slot (R26). -/
def writesKey : Instr → Bool
  | .zeroize | .keyload _ | .keyclr => true
  | .nop | .mov _ _ | .ldi _ _ | .fadd _ _ _ _ | .fsub _ _ _ _ | .fmul _ _ _ _ | .fpow _ _ _ _ _ | .finv _ _ _
  | .fdiv _ _ _ _ | .mred _ _ _ | .mredW _ _ _ _ | .mull _ _ _ | .mulh _ _ _ | .pset _ _ _ | .pinf _ | .pmov _ _
  | .padd _ _ _ | .pmul _ _ _ | .pgetx _ _ | .pgety _ _ | .peq _ _ | .pldg _ | .pdec _ _ _ | .keypub _ | .kgen _ _
  | .sign _ _ _ | .verify _ _ _ _ => false

/-- The five result flags by name (R29). -/
inductive FlagName where
  | z
  | inf
  | odd
  | eq
  | v
deriving DecidableEq, Repr

/-- The value of a named flag. -/
def Flags.get (f : Flags) : FlagName → Bool
  | .z => f.z
  | .inf => f.inf
  | .odd => f.odd
  | .eq => f.eq
  | .v => f.v

/-- The flags a command writes when it completes successfully (R30). -/
def flagsWritten : Instr → List FlagName
  | .zeroize => [.z, .inf, .odd, .eq, .v]
  | .fadd _ _ _ _ | .fsub _ _ _ _ | .fmul _ _ _ _ | .fpow _ _ _ _ _ | .finv _ _ _ | .fdiv _ _ _ _ | .mred _ _ _
  | .mredW _ _ _ _ | .mull _ _ _ | .mulh _ _ _ => [.z]
  | .pset _ _ _ | .pinf _ | .pmov _ _ | .padd _ _ _ | .pmul _ _ _ | .pldg _ | .pdec _ _ _ | .keypub _ => [.inf]
  | .pgetx _ _ | .pgety _ _ => [.odd]
  | .peq _ _ => [.eq]
  | .verify _ _ _ _ => [.v]
  | .nop | .mov _ _ | .ldi _ _ | .keyload _ | .keyclr | .kgen _ _ | .sign _ _ _ => []

/-- The error codes a legal command can end with (R301). -/
def codesRaised : Instr → List Code
  | .fadd _ _ _ _ | .fsub _ _ _ _ | .fmul _ _ _ _ | .fpow _ _ _ _ _ => [.operandRange]
  | .finv _ _ _ | .fdiv _ _ _ _ => [.operandRange, .divZero]
  | .pset _ _ _ | .pdec _ _ _ => [.operandRange, .pointNotOnCurve]
  | .pgetx _ _ | .pgety _ _ => [.pointAtInfinity]
  | .keyload _ => [.keyRange]
  | .keypub _ | .kgen _ _ | .sign _ _ _ => [.noKey]
  | .nop | .mov _ _ | .ldi _ _ | .zeroize | .mred _ _ _ | .mredW _ _ _ _ | .mull _ _ _ | .mulh _ _ _ | .pinf _
  | .pmov _ _ | .padd _ _ _ | .pmul _ _ _ | .peq _ _ | .pldg _ | .keyclr | .verify _ _ _ _ => []

/-- The commands that search for a nonce, the only ones that can still be running after the engine's turn (R351). -/
def searches : Instr → Bool
  | .kgen _ _ | .sign _ _ _ => true
  | .nop | .mov _ _ | .ldi _ _ | .zeroize | .fadd _ _ _ _ | .fsub _ _ _ _ | .fmul _ _ _ _ | .fpow _ _ _ _ _
  | .finv _ _ _ | .fdiv _ _ _ _ | .mred _ _ _ | .mredW _ _ _ _ | .mull _ _ _ | .mulh _ _ _ | .pset _ _ _ | .pinf _
  | .pmov _ _ | .padd _ _ _ | .pmul _ _ _ | .pgetx _ _ | .pgety _ _ | .peq _ _ | .pldg _ | .pdec _ _ _ | .keyload _
  | .keypub _ | .keyclr | .verify _ _ _ _ => false

/-- `INF` after a successful completion, for the commands that always write the same value (R30). -/
def infAlways : Instr → Option Bool
  | .pinf _ => some true
  | .pset _ _ _ | .pldg _ | .pdec _ _ _ | .keypub _ | .zeroize => some false
  | .nop | .mov _ _ | .ldi _ _ | .fadd _ _ _ _ | .fsub _ _ _ _ | .fmul _ _ _ _ | .fpow _ _ _ _ _
  | .finv _ _ _ | .fdiv _ _ _ _ | .mred _ _ _ | .mredW _ _ _ _ | .mull _ _ _ | .mulh _ _ _ | .pmov _ _ | .padd _ _ _
  | .pmul _ _ _ | .pgetx _ _ | .pgety _ _ | .peq _ _ | .keyload _ | .keyclr | .kgen _ _ | .sign _ _ _
  | .verify _ _ _ _ => none

/-! ## Encodings, and the illegal words by the list of R97 -/

/-- The command's word is `w`, and the decoder reads the command back from it (R96, R99). -/
def Encoded (i : Instr) (w : Word32) : Prop := encode i = w ∧ decode w = .ok i

/-- How a command uses an operand field (R94). -/
inductive FieldUse where
  | unused
  | general
  | point
deriving DecidableEq, Repr

/-- A field value that the use does not allow (R94). -/
def FieldUse.bad : FieldUse → BitVec 4 → Bool
  | .unused, v => v != 0
  | .general, _ => false
  | .point, v => decide (3 < v.toNat)

/-- What R96 lets the commands of one format R opcode have: `M`, `F`, and the four operand fields. -/
structure OpFields where
  op : BitVec 8
  m : Bool
  f : Bool
  a : FieldUse
  b : FieldUse
  c : FieldUse
  d : FieldUse
deriving DecidableEq, Repr

/-- The format R opcodes (R96): all but `0x02`. Under `0x16`, `B` is a general register when `F = 1`. -/
def opFields : List OpFields := [
  ⟨0x00, false, false, .unused, .unused, .unused, .unused⟩,
  ⟨0x01, false, false, .general, .general, .unused, .unused⟩,
  ⟨0x03, false, false, .unused, .unused, .unused, .unused⟩,
  ⟨0x10, true, false, .general, .general, .general, .unused⟩,
  ⟨0x11, true, false, .general, .general, .general, .unused⟩,
  ⟨0x12, true, false, .general, .general, .general, .unused⟩,
  ⟨0x13, true, true, .general, .general, .general, .unused⟩,
  ⟨0x14, true, false, .general, .general, .unused, .unused⟩,
  ⟨0x15, true, false, .general, .general, .general, .unused⟩,
  ⟨0x16, true, true, .general, .general, .general, .unused⟩,
  ⟨0x17, false, false, .general, .general, .general, .unused⟩,
  ⟨0x18, false, false, .general, .general, .general, .unused⟩] ++ [
  ⟨0x20, false, false, .point, .general, .general, .unused⟩,
  ⟨0x21, false, false, .point, .unused, .unused, .unused⟩,
  ⟨0x22, false, false, .point, .point, .unused, .unused⟩,
  ⟨0x23, false, false, .point, .point, .point, .unused⟩,
  ⟨0x24, false, false, .point, .point, .general, .unused⟩,
  ⟨0x25, false, false, .general, .point, .unused, .unused⟩,
  ⟨0x26, false, false, .general, .point, .unused, .unused⟩,
  ⟨0x27, false, false, .unused, .point, .point, .unused⟩,
  ⟨0x28, false, false, .point, .unused, .unused, .unused⟩,
  ⟨0x29, false, true, .point, .general, .unused, .unused⟩] ++ [
  ⟨0x30, false, false, .unused, .general, .unused, .unused⟩,
  ⟨0x31, false, false, .point, .unused, .unused, .unused⟩,
  ⟨0x32, false, false, .unused, .unused, .unused, .unused⟩,
  ⟨0x33, false, false, .general, .general, .unused, .unused⟩,
  ⟨0x34, false, false, .general, .general, .unused, .general⟩,
  ⟨0x35, false, false, .point, .general, .general, .general⟩]

/-- The illegal words, by the list of R97. -/
def illegalByList (w : Word32) : Bool :=
  if w.extractLsb' 24 8 = 0x02 then w.extractLsb' 20 4 != 0
  else
    match opFields.find? (fun r => r.op == w.extractLsb' 24 8) with
    | none => true
    | some r =>
      w.extractLsb' 22 2 != 0 || w.extractLsb' 0 4 != 0 || (w.getLsbD 20 && !r.m) || (w.getLsbD 21 && !r.f) ||
        r.a.bad (w.extractLsb' 16 4) || r.b.bad (w.extractLsb' 12 4) || r.c.bad (w.extractLsb' 8 4) ||
        r.d.bad (w.extractLsb' 4 4) || (r.op == 0x16 && !w.getLsbD 21 && w.extractLsb' 12 4 != 0) ||
        (r.op == 0x34 && w.extractLsb' 16 4 == w.extractLsb' 4 4)

/-! ## The host and an engine-owned block -/

/-- What every host access does to an engine-owned block: accesses of the register file and writes of `CMD` are refused and
set `OVR_I`, all else is as always (R62, R63, R70). -/
structure OwnedAccess (s : State) : Prop where
  readFile : ∀ off, off % 4 = 0 → 0x200 ≤ off → off < 0x400 →
    memRead off 4 s = (.data 0, { s with istat := s.istat ||| 8 })
  writeFile : ∀ off v, off % 4 = 0 → 0x200 ≤ off → off < 0x400 →
    memWrite off 4 v s = (.ok, { s with istat := s.istat ||| 8 })
  writeCmd : ∀ v, memWrite 0x00C 4 v s = (.ok, { s with istat := s.istat ||| 8 })
  readId : memRead 0x000 4 s = (.data 0x4B310100, s)
  readCtrl : memRead 0x004 4 s = (.data 0, s)
  readStatus : memRead 0x008 4 s = (.data s.statusWord, s)
  readCmd : memRead 0x00C 4 s = (.data s.cmd, s)
  readIen : memRead 0x010 4 s = (.data (s.ien.setWidth 32), s)
  readIstat : memRead 0x014 4 s = (.data (s.istat.setWidth 32), s)
  readReserved : ∀ off, off % 4 = 0 → 0x018 ≤ off → off < 0x200 → memRead off 4 s = (.data 0, s)
  writeId : ∀ v, memWrite 0x000 4 v s = (.ok, s)
  writeReset : ∀ v : Word32, v.getLsbD 0 = true →
    memWrite 0x004 4 v s = (.ok, { State.reset with schedule := s.schedule, reply := s.reply })
  writeNoReset : ∀ v : Word32, v.getLsbD 0 = false → memWrite 0x004 4 v s = (.ok, s)
  writeStatus : ∀ v, memWrite 0x008 4 v s = (.ok, s)
  writeIen : ∀ v, memWrite 0x010 4 v s = (.ok, { s with ien := v.setWidth 4 })
  writeIstat : ∀ v, memWrite 0x014 4 v s = (.ok, { s with istat := s.istat &&& ~~~(v.setWidth 4) })
  writeReserved : ∀ off v, off % 4 = 0 → 0x018 ≤ off → off < 0x200 → memWrite off 4 v s = (.ok, s)
  malformed : ∀ off size v, size ≠ 4 ∨ off % 4 ≠ 0 ∨ 0x400 ≤ off →
    memRead off size s = (.busError, s) ∧ memWrite off size v s = (.busError, s)

/-! ## The event of a step -/

/-- The event is a 4-byte read of window offset `off`, by offset or by bus address (R62, R72). -/
def Event.readsAt (off : Nat) (e : Event) : Prop := e = .read off 4 ∨ e = .busRead (Config.base + off) 4

/-- The event is a 4-byte write of `v` at window offset `off`, by offset or by bus address (R63, R72). -/
def Event.writesAt (off : Nat) (v : Word32) (e : Event) : Prop :=
  e = .write off 4 v ∨ e = .busWrite (Config.base + off) 4 v

/-- The event is a reset: the reset input, or a write of 1 to `CTRL.SRST` (R32, R340). -/
def Event.resets (e : Event) : Prop := e = .hardReset ∨ ∃ v : Word32, v.getLsbD 0 = true ∧ e.writesAt 0x004 v

/-- The event is a write of `CMD` (R69). -/
def Event.writesCmd (e : Event) : Prop := ∃ v, e.writesAt 0x00C v

/-- The event is an access that an engine-owned block refuses: of the register file, or a write of `CMD` (R70). -/
def Event.refusable (e : Event) : Prop :=
  e.writesCmd ∨
    ∃ off, off % 4 = 0 ∧ 0x200 ≤ off ∧ off < 0x400 ∧ (e.readsAt off ∨ ∃ v, e.writesAt off v)

/-- The next step is an event of which `P` holds (R74). -/
def State.nextIs (s : State) (P : Event → Prop) : Prop := ∃ e rest, s.schedule = e :: rest ∧ P e

/-- The engine has the next step (R19, R74). -/
def State.engineNext (s : State) : Prop := s.schedule = [] ∨ ∃ rest, s.schedule = .engine :: rest

/-- The state with another secret in the key slot. -/
def State.withSecret (s : State) (d : Word256) : State := { s with key := { s.key with secret := d } }

/-! ## The invariant -/

/-- A point is valid: `Infinity`, or reduced coordinates on the curve (R24, R150). -/
def Point.valid (c : Curve) : Point → Bool
  | .infinity => true
  | .affine x y => decide (x.toNat < c.p) && decide (y.toNat < c.p) && onCurve c x.toNat y.toNat

/-- The key slot is empty, or a private key made from a secret in `[1, n)` (R26, R41). -/
def KeySlot.ok (k : KeySlot) : Prop :=
  k = .empty ∨ (0 < k.secret.toNat ∧ k.secret.toNat < Config.curve.n ∧ k = keyOf Config.curve k.secret)

/-- `STATUS` shows one of: a running command, none or a successful one, a recoverable error, the fatal state (R33,
R300). -/
def State.statusOk (s : State) : Prop :=
  (s.busy = true ∧ s.done = false ∧ s.err = false ∧ s.fatal = false ∧ s.code = .none) ∨
  (s.busy = false ∧ s.err = false ∧ s.fatal = false ∧ s.code = .none) ∨
  (s.busy = false ∧ s.done = true ∧ s.err = true ∧ s.fatal = false ∧ s.code.recoverable = true) ∨
  (s.busy = false ∧ s.done = true ∧ s.err = false ∧ s.fatal = true ∧ s.code = .divZero)

/-- The invariant of the reachable states. -/
structure State.Inv (s : State) : Prop where
  /-- every point register holds a valid point (R24) -/
  points : ∀ i, (s.point i).valid Config.curve = true
  /-- the key slot's fields belong together (R26) -/
  key : s.key.ok
  /-- the progress fields agree (R33) -/
  status : s.statusOk
  /-- only a running command has rejected candidates (log entry 3) -/
  tries : s.busy = false → s.nonceTry = 0

/-! ## The curve as a group -/

/-- `y² = x³ + a·x + b` over the field of `p` elements (R151). -/
def shortCurve : WeierstrassCurve.Affine (ZMod Config.curve.p) := ⟨0, 0, 0, Config.curve.a, Config.curve.b⟩

/-- The stored point stands for the point `q` of the curve (R24, R150). -/
def Represents (pt : Point) (q : shortCurve.Point) : Prop :=
  match pt with
  | .infinity => q = .zero
  | .affine x y => ∃ h, q = .some (x.toNat : ZMod Config.curve.p) (y.toNat : ZMod Config.curve.p) h

/-- The point with the same `x` and the negated `y` (R152). -/
def negPoint : Point → Point
  | .infinity => .infinity
  | .affine x y => .affine x (BitVec.ofNat 256 (fsub 0 y.toNat Config.curve.p))

/-! ## Runs -/

/-- `k` steps of the machine. -/
def runSteps (k : Nat) (s : State) : Result := Sys2Proof.core.run k s

end Sys2Proof.Machine
end

