-- ==== Sys2Proof/Laws/Ops.lean ====
section
/-! SUPPORT. What the shared operations of Machine/Ops.lean, Machine/Flags.lean and Machine/Operands.lean do, said once:
register reads after writes, and the ends of a command in the terms of Safety.lean. -/

namespace Sys2Proof.Machine

/-! ## Register reads after writes -/

@[simp] theorem setReg_reg_self (s : State) (i : Reg) (v : Word256) : (s.setReg i v).reg i = v := by
  simp [State.reg, Vector.get_eq_getElem]

theorem setReg_reg_ne (s : State) {i j : Reg} (v : Word256) (h : j ≠ i) : (s.setReg i v).reg j = s.reg j := by
  have h' : i.val ≠ j.val := fun e => h (Fin.ext e.symm)
  simp [State.reg, Vector.get_eq_getElem, h']

theorem setReg_reg (s : State) (i j : Reg) (v : Word256) :
    (s.setReg i v).reg j = if j = i then v else s.reg j := by
  split
  · next h => subst h; simp
  · next h => exact setReg_reg_ne s v h

@[simp] theorem setPoint_point_self (s : State) (i : PReg) (v : Point) : (s.setPoint i v).point i = v := by
  simp [State.point, Vector.get_eq_getElem]

theorem setPoint_point_ne (s : State) {i j : PReg} (v : Point) (h : j ≠ i) :
    (s.setPoint i v).point j = s.point j := by
  have h' : i.val ≠ j.val := fun e => h (Fin.ext e.symm)
  simp [State.point, Vector.get_eq_getElem, h']

theorem setPoint_point (s : State) (i j : PReg) (v : Point) :
    (s.setPoint i v).point j = if j = i then v else s.point j := by
  split
  · next h => subst h; simp
  · next h => exact setPoint_point_ne s v h

/-- Reading a register looks at `regs` only. -/
theorem reg_congr {s t : State} (h : t.regs = s.regs) (i : Reg) : t.reg i = s.reg i := by
  simp [State.reg, h]

/-- Reading a point register looks at `points` only. -/
theorem point_congr {s t : State} (h : t.points = s.points) (i : PReg) : t.point i = s.point i := by
  simp [State.point, h]

/-- Two register files are equal when all their registers are. -/
theorem regs_ext {s t : State} (h : ∀ i, t.reg i = s.reg i) : t.regs = s.regs := by
  apply Vector.ext
  intro i hi
  simpa [State.reg, Vector.get_eq_getElem] using h ⟨i, hi⟩

/-! ## The range check -/

theorem inRange_one (s : State) (m : Nat) (a : Reg) : s.inRange m [a] = true ↔ s.num a < m := by
  simp [State.inRange]

theorem inRange_two (s : State) (m : Nat) (a b : Reg) :
    s.inRange m [a, b] = true ↔ s.num a < m ∧ s.num b < m := by
  simp [State.inRange]

theorem num_lt (s : State) (i : Reg) : s.num i < 2 ^ 256 := (s.reg i).isLt

@[simp] theorem reg_ofNat_num (s : State) (i : Reg) : BitVec.ofNat 256 (s.num i) = s.reg i := by
  simp [State.num]

/-! ## Ends of a command -/

/-- `u` differs from `s` in data only: it is `s` with results written and not yet completed. -/
structure SameShell (s u : State) : Prop where
  cmd : u.cmd = s.cmd
  busy : u.busy = s.busy
  done : u.done = s.done
  err : u.err = s.err
  fatal : u.fatal = s.fatal
  code : u.code = s.code
  ien : u.ien = s.ien
  istat : u.istat = s.istat
  nonceTry : u.nonceTry = s.nonceTry
  schedule : u.schedule = s.schedule
  reply : u.reply = s.reply

theorem SameShell.refl (s : State) : SameShell s s := ⟨rfl, rfl, rfl, rfl, rfl, rfl, rfl, rfl, rfl, rfl, rfl⟩

/-- Completing after writing results is a successful completion. -/
theorem succeeded_completeOk {s u : State} (h : SameShell s u) : Succeeded s (completeOk u) where
  busy := rfl
  done := rfl
  err := h.err
  fatal := h.fatal
  code := h.code
  istat := by simp [h.istat, doneI]
  cmd := h.cmd
  ien := h.ien
  nonceTry := rfl
  schedule := h.schedule
  reply := h.reply

theorem failed_completeError (c : Code) (s : State) : Failed c s (completeError c s) where
  data := ⟨rfl, rfl, rfl, rfl⟩
  busy := rfl
  done := rfl
  err := rfl
  fatal := rfl
  code := rfl
  istat := rfl
  cmd := rfl
  ien := rfl
  nonceTry := rfl
  schedule := rfl
  reply := rfl

theorem died_enterFatal (c : Code) (s : State) : Died c s (enterFatal c s) where
  data := ⟨rfl, rfl, rfl, rfl⟩
  busy := rfl
  done := rfl
  err := rfl
  fatal := rfl
  code := rfl
  istat := rfl
  cmd := rfl
  ien := rfl
  nonceTry := rfl
  schedule := rfl
  reply := rfl

/-- `complete` answers the completed state. -/
theorem completes_complete {s u : State} {Q : State → Prop} (h : SameShell s u) (hq : Q (completeOk u)) :
    Completes s (complete u) Q :=
  ⟨_, rfl, succeeded_completeOk h, hq⟩

theorem errs_raiseError (c : Code) (s : State) : Errs s (raiseError c s) c := ⟨_, rfl, failed_completeError c s⟩

theorem dies_raiseFatal (c : Code) (s : State) : Dies s (raiseFatal c s) c := ⟨_, rfl, died_enterFatal c s⟩

/-- What `completeResult` does: the result in `rd`, its `Z`, nothing else. -/
theorem completes_completeResult (rd : Reg) (v : Nat) (s : State) (hv : v < 2 ^ 256) :
    Completes s (completeResult rd v s) fun t =>
      t.num rd = v ∧ OnlyRegs [rd] s t ∧ t.flags = { s.flags with z := decide (v = 0) } := by
  refine completes_complete ⟨rfl, rfl, rfl, rfl, rfl, rfl, rfl, rfl, rfl, rfl, rfl⟩ ⟨?_, ⟨?_, rfl, rfl⟩, ?_⟩
  · show ((s.setReg rd (BitVec.ofNat 256 v)).reg rd).toNat = v
    rw [setReg_reg_self, BitVec.toNat_ofNat, Nat.mod_eq_of_lt hv]
  · intro i hi
    exact setReg_reg_ne s _ (by simpa using hi)
  · have hz : isZero (BitVec.ofNat 256 v) = decide (v = 0) := by
      rw [Bool.eq_iff_iff]
      simp only [isZero, beq_iff_eq, decide_eq_true_eq]
      constructor
      · intro h
        have := congrArg BitVec.toNat h
        rwa [BitVec.toNat_ofNat, Nat.mod_eq_of_lt hv] at this
      · intro h; subst h; rfl
    show ({ s.flags with z := isZero (BitVec.ofNat 256 v) } : Flags) = _
    rw [hz]

/-- What `completePoint` does: the point in `pd`, its `INF`, nothing else. -/
theorem completes_completePoint (pd : PReg) (v : Point) (s : State) :
    Completes s (completePoint pd v s) fun t =>
      t.point pd = v ∧ OnlyPoint pd s t ∧ t.flags = { s.flags with inf := isInfinity v } := by
  refine completes_complete ⟨rfl, rfl, rfl, rfl, rfl, rfl, rfl, rfl, rfl, rfl, rfl⟩ ⟨?_, ⟨?_, rfl, rfl⟩, rfl⟩
  · exact setPoint_point_self s pd v
  · intro i hi
    exact setPoint_point_ne s v hi

end Sys2Proof.Machine
end

