-- ==== Sys2Proof/Laws/Field.lean ====
section
/-! SUPPORT. The arithmetic functions: results are below the modulus, `fsub` in its two-case form, and what the
square-and-multiply loop computes. -/

namespace Sys2Proof.Machine

/-! ## The moduli -/

theorem modulus_gt_two (m : Modulus) : 2 < modulus m := by cases m <;> decide

theorem modulus_pos (m : Modulus) : 0 < modulus m := by cases m <;> decide

theorem modulus_lt (m : Modulus) : modulus m < 2 ^ 256 := by cases m <;> decide

theorem modulus_odd (m : Modulus) : modulus m % 2 = 1 := by cases m <;> decide

/-! ## Ranges -/

theorem fadd_lt {m : Nat} (hm : 0 < m) (a b : Nat) : fadd a b m < m := Nat.mod_lt _ hm

theorem fmul_lt {m : Nat} (hm : 0 < m) (a b : Nat) : fmul a b m < m := Nat.mod_lt _ hm

theorem mred_lt {m : Nat} (hm : 0 < m) (a b : Nat) : mred a b m < m := Nat.mod_lt _ hm

theorem fsub_lt {m : Nat} (hm : 0 < m) (a b : Nat) : fsub a b m < m := by
  have h1 := Int.emod_nonneg ((a : Int) - b) (by omega : (m : Int) ≠ 0)
  have h2 := Int.emod_lt_of_pos ((a : Int) - b) (by omega : (0 : Int) < m)
  unfold fsub
  omega

/-- The equivalent form of R122. -/
theorem fsub_eq {a b m : Nat} (ha : a < m) (hb : b < m) : fsub a b m = if b ≤ a then a - b else a + m - b := by
  unfold fsub
  split
  · next h =>
    rw [Int.emod_eq_of_lt (by omega) (by omega)]
    omega
  · next h =>
    rw [← Int.add_emod_right, Int.emod_eq_of_lt (by omega) (by omega)]
    omega

/-- `fsub` as a residue: adding the subtrahend back gives the minuend. -/
theorem fsub_add {m : Nat} (hm : 0 < m) (a b : Nat) : (fsub a b m + b) % m = a % m := by
  have h0 : (m : Int) ≠ 0 := by omega
  have h1 : ((fsub a b m : Nat) : Int) = ((a : Int) - b) % m := by
    unfold fsub
    exact Int.toNat_of_nonneg (Int.emod_nonneg _ h0)
  have h2 : (((fsub a b m + b) % m : Nat) : Int) = ((a % m : Nat) : Int) := by
    push_cast
    rw [h1, Int.emod_add_emod, sub_add_cancel]
  exact_mod_cast h2

/-! ## The square-and-multiply loop -/

/-- The loop multiplies its running result by `cur ^ e`. -/
theorem powLoop_eq (m : Nat) : ∀ (fuel e cur result : Nat), e < 2 ^ fuel → result % m = result →
    powLoop m fuel e cur result = result * cur ^ e % m := by
  intro fuel
  induction fuel with
  | zero =>
    intro e cur result he hr
    have : e = 0 := by simpa using he
    subst this
    simp [powLoop, hr]
  | succ fuel ih =>
    intro e cur result he hr
    unfold powLoop
    split
    · next h => subst h; simp [hr]
    · next h =>
      have he' : e / 2 < 2 ^ fuel := by
        rw [pow_succ] at he
        omega
      have hsq : (fmul cur cur m) ^ (e / 2) % m = (cur ^ 2) ^ (e / 2) % m := by
        unfold fmul
        rw [← Nat.pow_mod, sq]
      have hsplit : e = 2 * (e / 2) + e % 2 := by omega
      split
      · next hb =>
        have hr' : fmul result cur m % m = fmul result cur m := Nat.mod_mod _ _
        have hgoal : result * cur ^ e = result * cur * (cur ^ 2) ^ (e / 2) := by
          conv_lhs => rw [hsplit, hb, pow_succ, pow_mul]
          ring
        rw [ih _ _ _ he' hr', Nat.mul_mod, hsq, ← Nat.mul_mod, hgoal]
        unfold fmul
        rw [Nat.mod_mul_mod]
      · next hb =>
        have hb0 : e % 2 = 0 := by omega
        rw [ih _ _ _ he' hr, Nat.mul_mod, hsq, ← Nat.mul_mod]
        conv_rhs => rw [hsplit, hb0, add_zero, pow_mul]

/-- The effective exponent is below `2^256`. -/
theorem effectiveExponent_lt {E m : Nat} (neg : Bool) (hE : E < 2 ^ 256) (hm : 2 < m) (hm' : m < 2 ^ 256) :
    effectiveExponent E neg m < 2 ^ 256 := by
  unfold effectiveExponent
  split
  · have h1 := Int.emod_nonneg (-(E : Int)) (by omega : (m : Int) - 1 ≠ 0)
    have h2 := Int.emod_lt_of_pos (-(E : Int)) (by omega : (0 : Int) < (m : Int) - 1)
    omega
  · exact hE

/-- `fpow` is the power by the effective exponent (R124). -/
theorem fpow_eq {a E m : Nat} (neg : Bool) (hE : E < 2 ^ 256) (hm : 2 < m) (hm' : m < 2 ^ 256) :
    fpow a E neg m = a ^ effectiveExponent E neg m % m := by
  unfold fpow
  rw [powLoop_eq m 256 _ a 1 (effectiveExponent_lt neg hE hm hm') (Nat.mod_eq_of_lt (by omega)), one_mul]

/-- `finv` is the Fermat power (R125). -/
theorem finv_eq {b m : Nat} (hm : 2 < m) (hm' : m < 2 ^ 256) : finv b m = b ^ (m - 2) % m := by
  unfold finv
  rw [fpow_eq false (by omega) hm hm']
  rfl

theorem finv_lt {b m : Nat} (hm : 2 < m) (hm' : m < 2 ^ 256) : finv b m < m := by
  rw [finv_eq hm hm']
  exact Nat.mod_lt _ (by omega)

/-- For a prime modulus the Fermat power is the inverse (R125). -/
theorem fmul_finv {b m : Nat} (hp : m.Prime) (hm : 2 < m) (hm' : m < 2 ^ 256) (hb : b % m ≠ 0) :
    fmul b (finv b m) m = 1 := by
  have : Fact m.Prime := ⟨hp⟩
  have hb' : (b : ZMod m) ≠ 0 := by
    intro h
    exact hb (Nat.mod_eq_zero_of_dvd ((ZMod.natCast_eq_zero_iff b m).mp h))
  have hz : ((b * b ^ (m - 2) : Nat) : ZMod m) = ((1 : Nat) : ZMod m) := by
    push_cast
    rw [← pow_succ', show m - 2 + 1 = m - 1 by omega, ZMod.pow_card_sub_one_eq_one hb']
  have := (ZMod.natCast_eq_natCast_iff _ _ _).mp hz
  unfold fmul
  rw [finv_eq hm hm', Nat.mul_mod, Nat.mod_mod, ← Nat.mul_mod]
  rw [show b * b ^ (m - 2) % m = 1 % m from this, Nat.mod_eq_of_lt (by omega)]

end Sys2Proof.Machine
end

