-- ==== Sys2Proof/Laws/Primes.lean ====
section
/-! SUPPORT. The two moduli are prime (R11 says so from general knowledge): Lucas certificates, from the small factors up. -/

namespace Sys2Proof.Machine

/-- Lucas's test, with the powers computed by the model's own square-and-multiply loop: `a` has order `p - 1`. -/
theorem prime_of_certificate (p a : Nat) (factors : List Nat) (hp : 2 < p) (hp' : p < 2 ^ 256)
    (hf : ∀ q ∈ factors, q.Prime) (hprod : factors.prod = p - 1) (h1 : fpow a (p - 1) false p = 1)
    (h2 : ∀ q ∈ factors, fpow a ((p - 1) / q) false p ≠ 1) : p.Prime := by
  have key : ∀ e < 2 ^ 256, fpow a e false p = a ^ e % p := fun e he => fpow_eq false he hp hp'
  have cast : ∀ e, (a : ZMod p) ^ e = 1 ↔ a ^ e % p = 1 := by
    intro e
    have h := ZMod.natCast_eq_natCast_iff (a ^ e) 1 p
    rw [Nat.ModEq, Nat.mod_eq_of_lt (show 1 < p by omega)] at h
    push_cast at h
    exact h
  refine lucas_primality p (a : ZMod p) ?_ ?_
  · rw [cast, ← key _ (by omega)]
    exact h1
  · intro q hq hdvd h
    rw [← hprod] at hdvd
    obtain ⟨r, hr, hqr⟩ := (hq.prime.dvd_prod_iff).mp hdvd
    have : q = r := (Nat.prime_dvd_prime_iff_eq hq (hf r hr)).mp hqr
    subst this
    rw [cast, ← key _ (lt_of_le_of_lt (Nat.div_le_self _ _) (by omega))] at h
    exact h2 q hr h

theorem prime_1206781 : Nat.Prime 1206781 := by
  refine prime_of_certificate 1206781 10 [2, 2, 3, 5, 20113] (by decide) (by decide) ?_ (by decide +kernel) (by decide +kernel) (by decide +kernel)
  simp only [List.mem_cons, List.not_mem_nil, or_false]
  rintro q (rfl | rfl | rfl | rfl | rfl)
  · norm_num
  · norm_num
  · norm_num
  · norm_num
  · norm_num

theorem prime_7240687 : Nat.Prime 7240687 := by
  refine prime_of_certificate 7240687 3 [2, 3, 1206781] (by decide) (by decide) ?_ (by decide +kernel) (by decide +kernel) (by decide +kernel)
  simp only [List.mem_cons, List.not_mem_nil, or_false]
  rintro q (rfl | rfl | rfl)
  · norm_num
  · norm_num
  · exact prime_1206781

theorem prime_107590001 : Nat.Prime 107590001 := by
  refine prime_of_certificate 107590001 3 [2, 2, 2, 2, 5, 5, 5, 5, 7, 29, 53] (by decide) (by decide) ?_ (by decide +kernel) (by decide +kernel) (by decide +kernel)
  simp only [List.mem_cons, List.not_mem_nil, or_false]
  rintro q (rfl | rfl | rfl | rfl | rfl | rfl | rfl | rfl | rfl | rfl | rfl)
  · norm_num
  · norm_num
  · norm_num
  · norm_num
  · norm_num
  · norm_num
  · norm_num
  · norm_num
  · norm_num
  · norm_num
  · norm_num

theorem prime_255515944373312847190720520512484175977 : Nat.Prime 255515944373312847190720520512484175977 := by
  refine prime_of_certificate 255515944373312847190720520512484175977 3 [2, 2, 2, 7, 7, 11, 1627, 2657, 4423, 41201, 96557, 7240687, 107590001] (by decide) (by decide) ?_ (by decide +kernel) (by decide +kernel) (by decide +kernel)
  simp only [List.mem_cons, List.not_mem_nil, or_false]
  rintro q (rfl | rfl | rfl | rfl | rfl | rfl | rfl | rfl | rfl | rfl | rfl | rfl | rfl)
  · norm_num
  · norm_num
  · norm_num
  · norm_num
  · norm_num
  · norm_num
  · norm_num
  · norm_num
  · norm_num
  · norm_num
  · norm_num
  · exact prime_7240687
  · exact prime_107590001

theorem prime_13331831 : Nat.Prime 13331831 := by
  refine prime_of_certificate 13331831 13 [2, 5, 971, 1373] (by decide) (by decide) ?_ (by decide +kernel) (by decide +kernel) (by decide +kernel)
  simp only [List.mem_cons, List.not_mem_nil, or_false]
  rintro q (rfl | rfl | rfl | rfl)
  · norm_num
  · norm_num
  · norm_num
  · norm_num

theorem prime_173378833005251801 : Nat.Prime 173378833005251801 := by
  refine prime_of_certificate 173378833005251801 6 [2, 2, 2, 5, 5, 2621, 24809, 13331831] (by decide) (by decide) ?_ (by decide +kernel) (by decide +kernel) (by decide +kernel)
  simp only [List.mem_cons, List.not_mem_nil, or_false]
  rintro q (rfl | rfl | rfl | rfl | rfl | rfl | rfl | rfl)
  · norm_num
  · norm_num
  · norm_num
  · norm_num
  · norm_num
  · norm_num
  · norm_num
  · exact prime_13331831

theorem prime_22149492674086928081353 : Nat.Prime 22149492674086928081353 := by
  refine prime_of_certificate 22149492674086928081353 5 [2, 2, 2, 3, 5323, 173378833005251801] (by decide) (by decide) ?_ (by decide +kernel) (by decide +kernel) (by decide +kernel)
  simp only [List.mem_cons, List.not_mem_nil, or_false]
  rintro q (rfl | rfl | rfl | rfl | rfl | rfl)
  · norm_num
  · norm_num
  · norm_num
  · norm_num
  · norm_num
  · exact prime_173378833005251801

theorem prime_132896956044521568488119 : Nat.Prime 132896956044521568488119 := by
  refine prime_of_certificate 132896956044521568488119 6 [2, 3, 22149492674086928081353] (by decide) (by decide) ?_ (by decide +kernel) (by decide +kernel) (by decide +kernel)
  simp only [List.mem_cons, List.not_mem_nil, or_false]
  rintro q (rfl | rfl | rfl)
  · norm_num
  · norm_num
  · exact prime_22149492674086928081353

theorem prime_205115282021455665897114700593932402728804164701536103180137503955397371 : Nat.Prime 205115282021455665897114700593932402728804164701536103180137503955397371 := by
  refine prime_of_certificate 205115282021455665897114700593932402728804164701536103180137503955397371 10 [2, 3, 5, 29, 29, 31, 7723, 132896956044521568488119, 255515944373312847190720520512484175977] (by decide) (by decide) ?_ (by decide +kernel) (by decide +kernel) (by decide +kernel)
  simp only [List.mem_cons, List.not_mem_nil, or_false]
  rintro q (rfl | rfl | rfl | rfl | rfl | rfl | rfl | rfl | rfl)
  · norm_num
  · norm_num
  · norm_num
  · norm_num
  · norm_num
  · norm_num
  · norm_num
  · exact prime_132896956044521568488119
  · exact prime_255515944373312847190720520512484175977

theorem p_prime : Nat.Prime Config.curve.p := by
  refine prime_of_certificate Config.curve.p 3 [2, 3, 7, 13441, 205115282021455665897114700593932402728804164701536103180137503955397371] (by decide) (by decide) ?_ (by decide +kernel) (by decide +kernel) (by decide +kernel)
  simp only [List.mem_cons, List.not_mem_nil, or_false]
  rintro q (rfl | rfl | rfl | rfl | rfl)
  · norm_num
  · norm_num
  · norm_num
  · norm_num
  · exact prime_205115282021455665897114700593932402728804164701536103180137503955397371

theorem prime_44706919 : Nat.Prime 44706919 := by
  refine prime_of_certificate 44706919 6 [2, 3, 797, 9349] (by decide) (by decide) ?_ (by decide +kernel) (by decide +kernel) (by decide +kernel)
  simp only [List.mem_cons, List.not_mem_nil, or_false]
  rintro q (rfl | rfl | rfl | rfl)
  · norm_num
  · norm_num
  · norm_num
  · norm_num

theorem prime_174723607534414371449 : Nat.Prime 174723607534414371449 := by
  refine prime_of_certificate 174723607534414371449 3 [2, 2, 2, 17, 59, 4051, 120233, 44706919] (by decide) (by decide) ?_ (by decide +kernel) (by decide +kernel) (by decide +kernel)
  simp only [List.mem_cons, List.not_mem_nil, or_false]
  rintro q (rfl | rfl | rfl | rfl | rfl | rfl | rfl | rfl)
  · norm_num
  · norm_num
  · norm_num
  · norm_num
  · norm_num
  · norm_num
  · norm_num
  · exact prime_44706919

theorem prime_4681609 : Nat.Prime 4681609 := by
  refine prime_of_certificate 4681609 23 [2, 2, 2, 3, 97, 2011] (by decide) (by decide) ?_ (by decide +kernel) (by decide +kernel) (by decide +kernel)
  simp only [List.mem_cons, List.not_mem_nil, or_false]
  rintro q (rfl | rfl | rfl | rfl | rfl | rfl)
  · norm_num
  · norm_num
  · norm_num
  · norm_num
  · norm_num
  · norm_num

theorem prime_107361793816595537 : Nat.Prime 107361793816595537 := by
  refine prime_of_certificate 107361793816595537 3 [2, 2, 2, 2, 16699, 85831, 4681609] (by decide) (by decide) ?_ (by decide +kernel) (by decide +kernel) (by decide +kernel)
  simp only [List.mem_cons, List.not_mem_nil, or_false]
  rintro q (rfl | rfl | rfl | rfl | rfl | rfl | rfl)
  · norm_num
  · norm_num
  · norm_num
  · norm_num
  · norm_num
  · norm_num
  · exact prime_4681609

theorem prime_1627771 : Nat.Prime 1627771 := by
  refine prime_of_certificate 1627771 3 [2, 3, 5, 29, 1871] (by decide) (by decide) ?_ (by decide +kernel) (by decide +kernel) (by decide +kernel)
  simp only [List.mem_cons, List.not_mem_nil, or_false]
  rintro q (rfl | rfl | rfl | rfl | rfl)
  · norm_num
  · norm_num
  · norm_num
  · norm_num
  · norm_num

theorem prime_297159362677 : Nat.Prime 297159362677 := by
  refine prime_of_certificate 297159362677 2 [2, 2, 3, 3, 11, 461, 1627771] (by decide) (by decide) ?_ (by decide +kernel) (by decide +kernel) (by decide +kernel)
  simp only [List.mem_cons, List.not_mem_nil, or_false]
  rintro q (rfl | rfl | rfl | rfl | rfl | rfl | rfl)
  · norm_num
  · norm_num
  · norm_num
  · norm_num
  · norm_num
  · norm_num
  · exact prime_1627771

theorem prime_545358713 : Nat.Prime 545358713 := by
  refine prime_of_certificate 545358713 5 [2, 2, 2, 41, 59, 28181] (by decide) (by decide) ?_ (by decide +kernel) (by decide +kernel) (by decide +kernel)
  simp only [List.mem_cons, List.not_mem_nil, or_false]
  rintro q (rfl | rfl | rfl | rfl | rfl | rfl)
  · norm_num
  · norm_num
  · norm_num
  · norm_num
  · norm_num
  · norm_num

theorem prime_29047611873442575647497758179 : Nat.Prime 29047611873442575647497758179 := by
  refine prime_of_certificate 29047611873442575647497758179 2 [2, 293, 305873, 545358713, 297159362677] (by decide) (by decide) ?_ (by decide +kernel) (by decide +kernel) (by decide +kernel)
  simp only [List.mem_cons, List.not_mem_nil, or_false]
  rintro q (rfl | rfl | rfl | rfl | rfl)
  · norm_num
  · norm_num
  · norm_num
  · exact prime_545358713
  · exact prime_297159362677

theorem prime_341948486974166000522343609283189 : Nat.Prime 341948486974166000522343609283189 := by
  refine prime_of_certificate 341948486974166000522343609283189 2 [2, 2, 3, 3, 3, 109, 29047611873442575647497758179] (by decide) (by decide) ?_ (by decide +kernel) (by decide +kernel) (by decide +kernel)
  simp only [List.mem_cons, List.not_mem_nil, or_false]
  rintro q (rfl | rfl | rfl | rfl | rfl | rfl | rfl)
  · norm_num
  · norm_num
  · norm_num
  · norm_num
  · norm_num
  · norm_num
  · exact prime_29047611873442575647497758179

theorem n_prime : Nat.Prime Config.curve.n := by
  refine prime_of_certificate Config.curve.n 7 [2, 2, 2, 2, 2, 2, 3, 149, 631, 107361793816595537, 174723607534414371449, 341948486974166000522343609283189] (by decide) (by decide) ?_ (by decide +kernel) (by decide +kernel) (by decide +kernel)
  simp only [List.mem_cons, List.not_mem_nil, or_false]
  rintro q (rfl | rfl | rfl | rfl | rfl | rfl | rfl | rfl | rfl | rfl | rfl | rfl)
  · norm_num
  · norm_num
  · norm_num
  · norm_num
  · norm_num
  · norm_num
  · norm_num
  · norm_num
  · norm_num
  · exact prime_107361793816595537
  · exact prime_174723607534414371449
  · exact prime_341948486974166000522343609283189

theorem modulus_prime (m : Modulus) : (modulus m).Prime := by
  cases m
  · exact p_prime
  · exact n_prime

end Sys2Proof.Machine
end

