-- ==== Sys2Proof/Machine/Ripemd.lean ====
section
/-! DEFINITION. RIPEMD-160, which R276 names and the spec does not reproduce: written out from the published standard, which
stands outside the spec (PRESUMED, log entry 9). Host software only (R6); no step calls it. -/

namespace Sys2Proof.Machine

/-- The five words of a hash value, or of the working variables of one line. -/
structure RmdState where
  a : Word32
  b : Word32
  c : Word32
  d : Word32
  e : Word32
deriving DecidableEq, Repr

/-- The initial hash value. -/
def rmdInit : RmdState := ⟨0x67452301, 0xefcdab89, 0x98badcfe, 0x10325476, 0xc3d2e1f0⟩

/-- The five round functions; the left line uses them in this order, the right line in the reverse one. -/
def rmdF1 (x y z : Word32) : Word32 := x ^^^ y ^^^ z
def rmdF2 (x y z : Word32) : Word32 := (x &&& y) ||| (~~~x &&& z)
def rmdF3 (x y z : Word32) : Word32 := (x ||| ~~~y) ^^^ z
def rmdF4 (x y z : Word32) : Word32 := (x &&& z) ||| (y &&& ~~~z)
def rmdF5 (x y z : Word32) : Word32 := x ^^^ (y ||| ~~~z)

/-- What one round of 16 steps is made of: its function, its constant, the message words it takes and the rotations. -/
structure RmdRound where
  f : Word32 → Word32 → Word32 → Word32
  k : Word32
  words : List Nat
  turns : List Nat

/-- The left line. -/
def rmdLeft : List RmdRound := [
  ⟨rmdF1, 0x00000000, [0, 1, 2, 3, 4, 5, 6, 7, 8, 9, 10, 11, 12, 13, 14, 15],
    [11, 14, 15, 12, 5, 8, 7, 9, 11, 13, 14, 15, 6, 7, 9, 8]⟩,
  ⟨rmdF2, 0x5a827999, [7, 4, 13, 1, 10, 6, 15, 3, 12, 0, 9, 5, 2, 14, 11, 8],
    [7, 6, 8, 13, 11, 9, 7, 15, 7, 12, 15, 9, 11, 7, 13, 12]⟩,
  ⟨rmdF3, 0x6ed9eba1, [3, 10, 14, 4, 9, 15, 8, 1, 2, 7, 0, 6, 13, 11, 5, 12],
    [11, 13, 6, 7, 14, 9, 13, 15, 14, 8, 13, 6, 5, 12, 7, 5]⟩,
  ⟨rmdF4, 0x8f1bbcdc, [1, 9, 11, 10, 0, 8, 12, 4, 13, 3, 7, 15, 14, 5, 6, 2],
    [11, 12, 14, 15, 14, 15, 9, 8, 9, 14, 5, 6, 8, 6, 5, 12]⟩,
  ⟨rmdF5, 0xa953fd4e, [4, 0, 5, 9, 7, 12, 2, 10, 14, 1, 3, 8, 11, 6, 15, 13],
    [9, 15, 5, 11, 6, 8, 13, 12, 5, 12, 13, 14, 11, 8, 5, 6]⟩]

/-- The right line. -/
def rmdRight : List RmdRound := [
  ⟨rmdF5, 0x50a28be6, [5, 14, 7, 0, 9, 2, 11, 4, 13, 6, 15, 8, 1, 10, 3, 12],
    [8, 9, 9, 11, 13, 15, 15, 5, 7, 7, 8, 11, 14, 14, 12, 6]⟩,
  ⟨rmdF4, 0x5c4dd124, [6, 11, 3, 7, 0, 13, 5, 10, 14, 15, 8, 12, 4, 9, 1, 2],
    [9, 13, 15, 7, 12, 8, 9, 11, 7, 7, 12, 7, 6, 15, 13, 11]⟩,
  ⟨rmdF3, 0x6d703ef3, [15, 5, 1, 3, 7, 14, 6, 9, 11, 8, 12, 2, 10, 0, 4, 13],
    [9, 7, 15, 11, 8, 6, 6, 14, 12, 13, 5, 14, 13, 13, 7, 5]⟩,
  ⟨rmdF2, 0x7a6d76e9, [8, 6, 4, 1, 3, 11, 15, 0, 5, 12, 2, 13, 9, 7, 10, 14],
    [15, 5, 8, 11, 14, 14, 6, 14, 6, 9, 12, 9, 12, 5, 15, 8]⟩,
  ⟨rmdF1, 0x00000000, [12, 15, 10, 4, 1, 5, 8, 7, 6, 2, 13, 14, 0, 3, 9, 11],
    [8, 5, 12, 9, 12, 5, 14, 6, 8, 13, 6, 5, 15, 13, 11, 11]⟩]

/-- One step of a line, with a message word and a rotation. -/
def rmdStep (f : Word32 → Word32 → Word32 → Word32) (k : Word32) (v : RmdState) (wordTurn : Word32 × Nat) : RmdState :=
  ⟨v.e, (v.a + f v.b v.c v.d + wordTurn.1 + k).rotateLeft wordTurn.2 + v.e, v.b, v.c.rotateLeft 10, v.d⟩

/-- The 80 steps of a line over the 16 words of a block. -/
def rmdLine (line : List RmdRound) (x : List Word32) (v : RmdState) : RmdState :=
  line.foldl (fun v r => ((r.words.map (x.getD · 0)).zip r.turns).foldl (rmdStep r.f r.k) v) v

/-- The compression of one block, given as its 16 words, into the hash value. -/
def rmdCompress (hv : RmdState) (x : List Word32) : RmdState :=
  let l := rmdLine rmdLeft x hv
  let r := rmdLine rmdRight x hv
  ⟨hv.b + l.c + r.d, hv.c + l.d + r.e, hv.d + l.e + r.a, hv.e + l.a + r.b, hv.a + l.b + r.c⟩

/-- The padded message: `0x80`, the fewest zero bytes that fill whole blocks, and the bit length as eight little-endian
bytes. For 2^61 bytes or more it is the bit length modulo 2^64, as the standard says. -/
def rmdPad (msg : Bytes) : Bytes :=
  msg ++ [0x80] ++ List.replicate ((119 - msg.length % 64) % 64) 0 ++
    (List.range 8).map fun t => (BitVec.ofNat 64 (8 * msg.length)).extractLsb' (8 * t) 8

/-- The first `count` little-endian words of a byte string. -/
def rmdWords : (count : Nat) → Bytes → List Word32
  | count + 1, b0 :: b1 :: b2 :: b3 :: rest => (b3 ++ b2 ++ b1 ++ b0) :: rmdWords count rest
  | _, _ => []

/-- The blocks of a padded message, in order. -/
def rmdBlocks : (count : Nat) → Bytes → RmdState → RmdState
  | 0, _, hv => hv
  | count + 1, bytes, hv => rmdBlocks count (bytes.drop 64) (rmdCompress hv (rmdWords 16 (bytes.take 64)))

/-- The little-endian bytes of a word. -/
def rmdWordBytes (w : Word32) : Bytes := [w.extractLsb' 0 8, w.extractLsb' 8 8, w.extractLsb' 16 8, w.extractLsb' 24 8]

/-- The 20 bytes of a hash value. -/
def rmdBytes (v : RmdState) : Bytes :=
  rmdWordBytes v.a ++ rmdWordBytes v.b ++ rmdWordBytes v.c ++ rmdWordBytes v.d ++ rmdWordBytes v.e

/-- `RIPEMD160(msg)`, the function R276 names (PRESUMED, log entry 9). -/
def ripemd160 (msg : Bytes) : Bytes :=
  let padded := rmdPad msg
  rmdBytes (rmdBlocks (padded.length / 64) padded rmdInit)

end Sys2Proof.Machine
end

