-- ==== Sys2Proof/Machine/HostCodecs.lean ====
section
/-! DEFINITION. The byte-string formats that the spec places in host software (R6, R270 to R282): pure functions beside
the machine, called by no step. -/

namespace Sys2Proof

namespace Machine

/-! ## SEC public keys -/

/-- `compressedSec(P)`; `Infinity` has none (R272). -/
def compressedSec : Point → Option Bytes
  | .infinity => none
  | .affine x y => some ((if y.getLsbD 0 then 0x03 else 0x02) :: be32 x)

/-- `uncompressedSec(P)` (R272). -/
def uncompressedSec : Point → Option Bytes
  | .infinity => none
  | .affine x y => some (0x04 :: (be32 x ++ be32 y))

/-- What `PSET` makes of a coordinate pair: the point, or an error (R156, R271). -/
def pointOfPair (c : Curve) (x y : Nat) : Option Point :=
  if x < c.p ∧ y < c.p ∧ onCurve c x y then some (affineNat x y) else none

/-- What `PDEC` makes of an `x` and a parity: the point, or an error (R183, R271). -/
def pointOfX (c : Curve) (x : Nat) (odd : Bool) : Option Point := if x < c.p then decompress c x odd else none

/-- `parseSec(bytes)`; `none` is the decode error (R271). -/
def parseSec (c : Curve) : Bytes → Option Point
  | [] => none
  | prefixByte :: body =>
    if body.length = 64 ∧ prefixByte = 0x04 then pointOfPair c (intOf (body.take 32)) (intOf (body.drop 32))
    else if body.length = 32 ∧ prefixByte = 0x02 then pointOfX c (intOf body) false
    else if body.length = 32 ∧ prefixByte = 0x03 then pointOfX c (intOf body) true
    else none

/-! ## DER signatures -/

/-- A length byte (R273). -/
def lengthByte (b : Bytes) : Byte := BitVec.ofNat 8 b.length

/-- `derint(v)` (R273). The rule gives it for `1 ≤ v ≤ n − 1`. Elsewhere the model evaluates the same formula: the integer 0
has no content bytes and becomes `02 00` (DESIGN CHOICE, log entry 6). -/
def derInt (v : Word256) : Bytes :=
  let b := (be32 v).dropWhile (· == 0)
  let b := if (b.headD 0).getLsbD 7 then 0x00 :: b else b
  0x02 :: lengthByte b :: b

/-- `toDer(r, s)` (R273). The rule gives it for `1 ≤ r, s ≤ n − 1`; elsewhere the model evaluates the same formula (DESIGN
CHOICE, log entry 6). -/
def toDer (r s : Word256) : Bytes :=
  let body := derInt r ++ derInt s
  0x30 :: lengthByte body :: body

/-- One DER integer off the front of the input; content of more than 33 bytes or of 2^256 or more is refused (R274). -/
def parseDerInt : Bytes → Option (Nat × Bytes)
  | tag :: len :: rest =>
    if tag = 0x02 ∧ 0 < len.toNat ∧ len.toNat ≤ 33 ∧ len.toNat ≤ rest.length ∧ intOf (rest.take len.toNat) < 2 ^ 256
    then some (intOf (rest.take len.toNat), rest.drop len.toNat)
    else none
  | _ => none

/-- `parseDer(bytes)`; `none` is the decode error (R274). -/
def parseDer : Bytes → Option (Nat × Nat)
  | tag :: len :: body =>
    if tag = 0x30 ∧ len.toNat = body.length then
      match parseDerInt body with
      | none => none
      | some (r, rest) =>
        match parseDerInt rest with
        | some (s, []) => some (r, s)
        | _ => none
    else none
  | _ => none

/-! ## Hashes, Base58Check, WIF, address -/

/-- `hash256` (R276). -/
def hash256 (b : Bytes) : Bytes := sha256 (sha256 b)

/-- `hash160(b) = RIPEMD160(SHA256(b))` (R276; RIPEMD-160 is PRESUMED, log entry 9). -/
def hash160 (b : Bytes) : Bytes := ripemd160 (sha256 b)

/-- The Base58 alphabet, index 0 first (R275). -/
def base58Alphabet : List Char := "123456789ABCDEFGHJKLMNPQRSTUVWXYZabcdefghijkmnopqrstuvwxyz".toList

/-- The digits of `v` in base 58 before `acc`; `fuel` bounds their number (R275). -/
def base58Digits : (fuel v : Nat) → List Char → List Char
  | 0, _, acc => acc
  | fuel + 1, v, acc => if v = 0 then acc else base58Digits fuel (v / 58) (base58Alphabet.getD (v % 58) '1' :: acc)

/-- `Base58(b)`; two digits a byte are always enough (R275). -/
def base58 (b : Bytes) : List Char :=
  List.replicate (b.takeWhile (· == 0)).length '1' ++ base58Digits (2 * b.length) (intOf b) []

/-- `Base58Check(payload)` (R275). -/
def base58Check (payload : Bytes) : List Char := base58 (payload ++ (hash256 payload).take 4)

/-- The number a Base58 text writes; `none` for a character outside the alphabet (R275). -/
def base58Value : (acc : Nat) → List Char → Option Nat
  | acc, [] => some acc
  | acc, ch :: rest =>
    match base58Alphabet.findIdx? (· == ch) with
    | none => none
    | some d => base58Value (acc * 58 + d) rest

/-- The big-endian bytes of `v` without leading zeros, before `acc`; `fuel` bounds their number. -/
def bytesOfNat : (fuel v : Nat) → Bytes → Bytes
  | 0, _, acc => acc
  | fuel + 1, v, acc => if v = 0 then acc else bytesOfNat fuel (v / 256) (BitVec.ofNat 8 v :: acc)

/-- The inverse of `Base58` (R275). -/
def base58Decode (text : List Char) : Option Bytes :=
  (base58Value 0 text).map fun v =>
    List.replicate (text.takeWhile (· == '1')).length 0x00 ++ bytesOfNat text.length v []

/-- The inverse of `Base58Check`; a bad character or checksum is a decode error (R275). -/
def base58CheckDecode (text : List Char) : Option Bytes :=
  match base58Decode text with
  | none => none
  | some b =>
    let payload := b.take (b.length - 4)
    if 4 ≤ b.length ∧ (hash256 payload).take 4 = b.drop (b.length - 4) then some payload else none

/-- The network a key or address is for (R277, R278). -/
inductive Network where
  | mainnet
  | testnet
deriving DecidableEq, Repr

/-- `WIF(secret, compressed, net)` (R277). -/
def wif (secret : Word256) (compressed : Bool) (net : Network) : List Char :=
  let versionByte : Byte := match net with
    | .mainnet => 0x80
    | .testnet => 0xEF
  base58Check (versionByte :: (be32 secret ++ if compressed then [0x01] else []))

/-- `Address(P, compressed, net)` (R278). -/
def address (pt : Point) (compressed : Bool) (net : Network) : Option (List Char) :=
  let versionByte : Byte := match net with
    | .mainnet => 0x00
    | .testnet => 0x6F
  (if compressed then compressedSec pt else uncompressedSec pt).map fun sec =>
    base58Check (versionByte :: hash160 sec)

/-- The message scalar of a message's digest, `INT(hash256(msg))` (R229, R282). -/
def messageScalar (msg : Bytes) : Nat := intOf (hash256 msg)

end Machine

end Sys2Proof
end

