-- ==== Sys2Proof/Machine/Script.lean ====
section
/-! DEFINITION. Host software's side of the port: the host-script statements of R102 as events of the schedule, and the
assembler syntax of R100. -/

namespace Sys2Proof.Machine

/-! ## Host scripts (R102) -/

/-- The window offset of word `j` of `r[i]` (R61, R64). -/
def imageOffset (i : Reg) (j : Nat) : Nat := 0x200 + 0x20 * i.val + 4 * j

/-- `WR off, v` -/
def scriptWr (off : Nat) (v : Word32) : List Event := [.write off 4 v]

/-- `RD off` -/
def scriptRd (off : Nat) : List Event := [.read off 4]

/-- `SETR ri, v`: eight writes, `j` = 0 to 7 in that order. -/
def scriptSetr (i : Reg) (v : Word256) : List Event :=
  (List.range 8).map fun j => .write (imageOffset i j) 4 (wordOf v j)

/-- `GETR ri`: eight reads, `j` = 0 to 7. -/
def scriptGetr (i : Reg) : List Event := (List.range 8).map fun j => .read (imageOffset i j) 4

/-- `CMD <assembly>`: the command's word written to `CMD`. -/
def scriptCmd (i : Instr) : List Event := [.write 0x00C 4 (encode i)]

/-- The read that `WAIT` repeats until bit 0 of the answer is 0; how often is the host's control flow. -/
def scriptPoll : List Event := [.read 0x008 4]

/-- `WAIT` has ended on this answer. -/
def waitOver : Reply → Bool
  | .data v => !v.getLsbD 0
  | .ok => false
  | .busError => false

/-! ## Assembler syntax (R100) -/

/-- `r0` to `r15` -/
def asmReg (r : Reg) : String := "r" ++ toString r.val

/-- `P0` to `P3` -/
def asmPoint (p : PReg) : String := "P" ++ toString p.val

/-- `.P` or `.N` -/
def asmModulus : Modulus → String
  | .p => ".P"
  | .n => ".N"

/-- Operands in the order of R96, separated by a comma and a space. -/
def asmOperands : List String → String
  | [] => ""
  | [a] => a
  | a :: rest => a ++ ", " ++ asmOperands rest

/-- The assembly text of a command, immediates in decimal (R100). -/
def asm : Instr → String
  | .nop => "NOP"
  | .mov rd ra => "MOV " ++ asmOperands [asmReg rd, asmReg ra]
  | .ldi rd imm => "LDI " ++ asmOperands [asmReg rd, toString imm.toNat]
  | .zeroize => "ZEROIZE"
  | .fadd m rd ra rb => "FADD" ++ asmModulus m ++ " " ++ asmOperands [asmReg rd, asmReg ra, asmReg rb]
  | .fsub m rd ra rb => "FSUB" ++ asmModulus m ++ " " ++ asmOperands [asmReg rd, asmReg ra, asmReg rb]
  | .fmul m rd ra rb => "FMUL" ++ asmModulus m ++ " " ++ asmOperands [asmReg rd, asmReg ra, asmReg rb]
  | .fpow m neg rd ra rb =>
    "FPOW" ++ asmModulus m ++ (if neg then ".NEG " else " ") ++ asmOperands [asmReg rd, asmReg ra, asmReg rb]
  | .finv m rd ra => "FINV" ++ asmModulus m ++ " " ++ asmOperands [asmReg rd, asmReg ra]
  | .fdiv m rd ra rb => "FDIV" ++ asmModulus m ++ " " ++ asmOperands [asmReg rd, asmReg ra, asmReg rb]
  | .mred m rd rb => "MRED" ++ asmModulus m ++ " " ++ asmOperands [asmReg rd, asmReg rb]
  | .mredW m rd ra rb => "MRED" ++ asmModulus m ++ ".W " ++ asmOperands [asmReg rd, asmReg ra, asmReg rb]
  | .mull rd ra rb => "MULL " ++ asmOperands [asmReg rd, asmReg ra, asmReg rb]
  | .mulh rd ra rb => "MULH " ++ asmOperands [asmReg rd, asmReg ra, asmReg rb]
  | .pset pd ra rb => "PSET " ++ asmOperands [asmPoint pd, asmReg ra, asmReg rb]
  | .pinf pd => "PINF " ++ asmPoint pd
  | .pmov pd pa => "PMOV " ++ asmOperands [asmPoint pd, asmPoint pa]
  | .padd pd pa pb => "PADD " ++ asmOperands [asmPoint pd, asmPoint pa, asmPoint pb]
  | .pmul pd pa rb => "PMUL " ++ asmOperands [asmPoint pd, asmPoint pa, asmReg rb]
  | .pgetx rd pa => "PGETX " ++ asmOperands [asmReg rd, asmPoint pa]
  | .pgety rd pa => "PGETY " ++ asmOperands [asmReg rd, asmPoint pa]
  | .peq pa pb => "PEQ " ++ asmOperands [asmPoint pa, asmPoint pb]
  | .pldg pd => "PLDG " ++ asmPoint pd
  | .pdec odd pd ra => "PDEC" ++ (if odd then ".O " else ".E ") ++ asmOperands [asmPoint pd, asmReg ra]
  | .keyload ra => "KEYLOAD " ++ asmReg ra
  | .keypub pd => "KEYPUB " ++ asmPoint pd
  | .keyclr => "KEYCLR"
  | .kgen rd ra => "KGEN " ++ asmOperands [asmReg rd, asmReg ra]
  | .sign rd re ra => "SIGN " ++ asmOperands [asmReg rd, asmReg re, asmReg ra]
  | .verify pa ra rb rc => "VERIFY " ++ asmOperands [asmPoint pa, asmReg ra, asmReg rb, asmReg rc]

end Sys2Proof.Machine
end

