-- ==== Sys2Proof/Certificates/Slice0/Obligations.lean ====
section
/-! DEFINITION. The statements for the provers. Where a statement speaks of the model's own fields (`nonceTry`, `schedule`,
`reply`; log entries 2 to 4) it says so. -/

open Sys2Proof Sys2Proof.Machine

/-! ## Encoding -/

/-- The words of the table of R100 decode to the commands they are listed for. -/
def Obligations.TableWordsDecode : Prop :=
  ∀ e ∈ ([(0x00000000, .nop), (0x02010007, .ldi 1 7), (0x020FFFFF, .ldi 15 0xFFFF), (0x10031200, .fadd .p 3 1 2),
    (0x10131200, .fadd .n 3 1 2), (0x13245600, .fpow .p true 4 5 6), (0x16110200, .mred .n 1 2),
    (0x16313200, .mredW .n 1 3 2), (0x20012300, .pset 1 2 3), (0x23001200, .padd 0 1 2), (0x24020900, .pmul 2 0 9),
    (0x25052000, .pgetx 5 2), (0x27000100, .peq 0 1), (0x29238000, .pdec true 3 8), (0x30000000, .keyload 0),
    (0x34013020, .sign 1 2 3), (0x35013120, .verify 1 3 1 2), (0x03000000, .zeroize)] : List (Word32 × Instr)),
    decode e.1 = .ok e.2

/-- Every well-formed command is read back from its word, with all its operands. -/
def Obligations.DecodeOfEncode : Prop := ∀ i : Instr, i.wf = true → decode (encode i) = .ok i

/-- Every word that decodes is the one word of its command, which is well-formed: no bit of a word is ignored (R98). -/
def Obligations.EncodeOfDecode : Prop := ∀ (w : Word32) (i : Instr), decode w = .ok i → i.wf = true ∧ encode i = w

/-- The rows of the opcode map are disjoint (R96). -/
def Obligations.OpcodeRowsDisjoint : Prop :=
  ∀ (w : Word32) (j k : Nat) (hj : j < rows.length) (hk : k < rows.length),
    Row.hit w rows[j] = true → Row.hit w rows[k] = true → j = k

/-- R97: the illegal words are exactly those of its list; an illegal word is accepted like any other, and the engine's
turn ends it with `ILLEGAL_CMD`, no data changed. -/
def Obligations.IllegalWordsCompleteWithError : Prop :=
  ∀ w : Word32, ((∃ e, decode w = .error e) ↔ illegalByList w = true) ∧
    (illegalByList w = true →
      (∀ s : State, s.owned = false → (memWrite 0x00C 4 w s).1 = .ok ∧ (memWrite 0x00C 4 w s).2.cmd = w ∧
        (memWrite 0x00C 4 w s).2.busy = true) ∧
      ∀ s : State, s.busy = true → s.cmd = w → Errs s (engineTurn s) .illegalCmd)

/-! ## The step -/

/-- A step runs the decoded command. When the engine is next and the block is busy, the step is `exec` of the command
that the word in `CMD` decodes to; the step adds only that the engine's event is taken off the schedule. The same for a
word placed by `withFetchWord`, which is accepted and run. -/
def Obligations.StepRunsDecodedCommand : Prop :=
  (∀ (s : State) (i : Instr), s.busy = true → decode s.cmd = .ok i →
    (s.schedule = [] → step s = exec i s) ∧
    ∀ rest, s.schedule = .engine :: rest → step s = exec i { s with schedule := rest }) ∧
  ∀ (s : State) (nbits w : Nat) (i : Instr), decodeTableWord nbits w = some i →
    step (s.withFetchWord nbits w) = exec i (accept (BitVec.ofNat 32 (w % 2 ^ nbits)) s)

/-- A step of the host does the one transaction that is next, a read or a write by window offset or by bus address, and the engine's turn on an idle block changes nothing
(R74; the schedule and the kept answer are the model's own, log entries 2 and 4). -/
def Obligations.StepRunsHostTransaction : Prop :=
  ∀ (s : State) (rest : List Event),
    (∀ off size, s.schedule = .read off size :: rest → ∀ r u, memRead off size { s with schedule := rest } = (r, u) →
      step s = .next { u with reply := some r }) ∧
    (∀ off size v, s.schedule = .write off size v :: rest →
      ∀ r u, memWrite off size v { s with schedule := rest } = (r, u) → step s = .next { u with reply := some r }) ∧
    (∀ addr size, s.schedule = .busRead addr size :: rest →
      ∀ r u, busRead addr size { s with schedule := rest } = (r, u) → step s = .next { u with reply := some r }) ∧
    (∀ addr size v, s.schedule = .busWrite addr size v :: rest →
      ∀ r u, busWrite addr size v { s with schedule := rest } = (r, u) → step s = .next { u with reply := some r }) ∧
    (s.busy = false → s.schedule = [] → step s = .next s) ∧
    (s.busy = false → s.schedule = .engine :: rest → step s = .next { s with schedule := rest })

/-- Every step of every state has a next state: nothing stops the machine, the fatal state included. -/
def Obligations.EveryStepHasNextState : Prop := ∀ s : State, ∃ t, step s = .next t

/-- The engine's turn on a just accepted command ends it in exactly one of the three ways of R300, or, for `KGEN` and
`SIGN` alone, passes over one nonce candidate and leaves the command running (R351; log entry 3). -/
def Obligations.CommandEndsInOneOfThreeWays : Prop :=
  ∀ s : State, s.busy = true → s.err = false → s.fatal = false → s.code = .none →
    ∃ t, engineTurn s = .next t ∧
      ((t.busy = false ∧ t.done = true ∧ t.err = false ∧ t.fatal = false ∧ t.code.toByte = 0) ∨
       (t.busy = false ∧ t.done = true ∧ t.err = true ∧ t.fatal = false ∧ 0 < t.code.toByte.toNat ∧
          t.code.toByte.toNat < 0x80 ∧ SameData s t) ∨
       (t.busy = false ∧ t.done = true ∧ t.err = false ∧ t.fatal = true ∧ 0x80 ≤ t.code.toByte.toNat ∧
          SameData s t) ∨
       (∃ i, decode s.cmd = .ok i ∧ searches i = true ∧ t = { s with nonceTry := s.nonceTry + 1 }))

/-- R303: a command that ends with a recoverable error ends with a code of its own and changes nothing else but the
progress fields and two pending bits; `ERR` and `CODE` then stay until an accept, which clears them, or a reset. -/
def Obligations.RecoverableErrorsArePrecise : Prop :=
  (∀ (i : Instr) (s t : State), s.err = false → exec i s = .next t → t.err = true →
    ∃ c, c ∈ codesRaised i ∧ c.recoverable = true ∧ Failed c s t) ∧
  ∀ s t : State, s.busy = false → step s = .next t →
    (s.nextIs Event.resets → IsReset t) ∧
    (s.owned = false → s.nextIs Event.writesCmd → t.busy = true ∧ t.err = false ∧ t.code = .none) ∧
    (¬ s.nextIs Event.resets → ¬ (s.owned = false ∧ s.nextIs Event.writesCmd) → t.err = s.err ∧ t.code = s.code)

/-- R305: the fatal state is entered only by a zero divisor of `FINV` or `FDIV`, with `DIV_ZERO`, and nothing else changes
but the progress fields and two pending bits. -/
def Obligations.FatalOnlyOnZeroDivisor : Prop :=
  ∀ (i : Instr) (s t : State), s.fatal = false → exec i s = .next t → t.fatal = true →
    Died .divZero s t ∧
      ((∃ m rd ra, i = .finv m rd ra ∧ s.num ra = 0) ∨
       (∃ m rd ra rb, i = .fdiv m rd ra rb ∧ s.num ra < modulus m ∧ s.num rb = 0))

/-- R306: in the fatal state every host access is defined as R70 says; a hardware reset and a write of 1 to `CTRL.SRST`
clear everything; any other step runs no command and changes neither the data, nor the code, nor the word, nor
`FATAL`. -/
def Obligations.FatalStateLeftOnlyByReset : Prop :=
  ∀ s : State, s.fatal = true → s.busy = false →
    s.owned = true ∧ OwnedAccess s ∧ ∀ t, step s = .next t →
      (s.nextIs Event.resets → IsReset t) ∧ (¬ s.nextIs Event.resets → SameCore s t)

/-- Whatever the environment does, a command that is not `KGEN` or `SIGN` is over after at most one step more than there
are events left in the schedule (R19, R351; the schedule is the model's own, log entry 2). -/
def Obligations.BoundedCommandsComplete : Prop :=
  ∀ s : State, s.busy = true → (∀ i, decode s.cmd = .ok i → searches i = false) →
    ∃ k t, k ≤ s.schedule.length + 1 ∧ runSteps k s = .next t ∧ t.busy = false

/-! ## What any command changes -/

/-- The frame of every command: whatever way it ends, it changes no general register but its destinations, no point
register but its destination, the key slot only if it is a command that writes it, never `CMD`, `IEN`, nor the model's
schedule and reply; every byte of the window that is no byte of `STATUS`, of `ISTAT` or of a destination register is
unchanged. -/
def Obligations.CommandFrame : Prop :=
  ∀ (i : Instr) (s t : State), exec i s = .next t →
    (∀ r, r ∉ regDests i → t.reg r = s.reg r) ∧ (∀ q, q ∉ pointDests i → t.point q = s.point q) ∧
    (writesKey i = false → t.key = s.key) ∧ t.cmd = s.cmd ∧ t.ien = s.ien ∧ t.schedule = s.schedule ∧
    t.reply = s.reply ∧
    (∀ b, b < 0x200 → ¬ (0x008 ≤ b ∧ b < 0x00C) → ¬ (0x014 ≤ b ∧ b < 0x018) → windowByte t b = windowByte s b) ∧
    ∀ b, 0x200 ≤ b → b < 0x400 → imageReg b ∉ regDests i → windowByte t b = windowByte s b

/-- R30: a flag is changed only by a command that writes it, and not when that command ends in an error or in the fatal
state, nor while it is still running; `INF` is always 0 or always 1
for the commands listed so, and `ZEROIZE` clears all five. -/
def Obligations.FlagsWrittenByCommand : Prop :=
  ∀ (i : Instr) (s t : State), exec i s = .next t →
    (∀ f, f ∉ flagsWritten i → t.flags.get f = s.flags.get f) ∧
    (s.err = false → t.err = true → t.flags = s.flags) ∧ (s.fatal = false → t.fatal = true → t.flags = s.flags) ∧
    (s.busy = true → t.busy = true → t.flags = s.flags) ∧
    (∀ b, infAlways i = some b → s.busy = true → s.err = false → s.fatal = false → t.busy = false → t.err = false →
      t.fatal = false → t.flags.inf = b) ∧
    (i = .zeroize → t.flags = .clear)

/-- A legal command leaves `CODE` alone or sets it to one of its own codes, each code has the number R301 gives it, and no
state that meets the invariant shows a number other than 0 and those of the codes that are raised: the two reserved ones
never show. -/
def Obligations.ErrorCodesByCommand : Prop :=
  (∀ (i : Instr) (s t : State), exec i s = .next t → t.code = s.code ∨ t.code ∈ codesRaised i) ∧
  (Code.toByte .none = 0x00 ∧ Code.toByte .illegalCmd = 0x01 ∧ Code.toByte .operandRange = 0x02 ∧
    Code.toByte .pointNotOnCurve = 0x03 ∧ Code.toByte .pointAtInfinity = 0x04 ∧ Code.toByte .noKey = 0x05 ∧
    Code.toByte .keyRange = 0x06 ∧ Code.toByte .divZero = 0x80 ∧ Code.toByte .primeMismatch = 0x81 ∧
    Code.toByte .curveMismatch = 0x82) ∧
  ∀ s : State, s.Inv → s.code.toByte ∈ [0x00, 0x01, 0x02, 0x03, 0x04, 0x05, 0x06, 0x80]

/-- What a command does to the data and to its progress does not depend on the interrupt bits, nor on the model's schedule
and reply. -/
def Obligations.CommandIgnoresInterruptState : Prop :=
  ∀ (i : Instr) (s s' t : State), SameCore s s' → exec i s = .next t → ∃ t', exec i s' = .next t' ∧ SameCore t t'

/-! ## Housekeeping commands -/

/-- R250 to R252: `NOP`, `MOV`, `LDI` complete in every state, with no flag written. -/
def Obligations.NopMovLdiResults : Prop :=
  ∀ (s : State) (rd ra : Reg) (imm : BitVec 16),
    Encoded .nop 0x00000000 ∧ Completes s (exec .nop s) (SameData s) ∧
    Encoded (.mov rd ra) (formatR 0x01 false false rd.bits ra.bits 0 0) ∧
    Completes s (exec (.mov rd ra) s) (fun t => t.reg rd = s.reg ra ∧ OnlyRegs [rd] s t ∧ t.flags = s.flags) ∧
    Encoded (.ldi rd imm) (formatI 0x02 rd.bits imm) ∧
    Completes s (exec (.ldi rd imm) s) (fun t => t.num rd = imm.toNat ∧ OnlyRegs [rd] s t ∧ t.flags = s.flags)

/-- R253: `ZEROIZE` completes in every state with all data cleared. -/
def Obligations.ZeroizeClearsData : Prop :=
  ∀ s : State, Encoded .zeroize 0x03000000 ∧ Completes s (exec .zeroize s) fun t =>
    (∀ r, t.num r = 0) ∧ (∀ q, t.point q = .infinity) ∧ t.key.valid = false ∧ t.key.secret = 0 ∧
      t.key.pub = .infinity ∧ t.flags.z = false ∧ t.flags.inf = false ∧ t.flags.odd = false ∧ t.flags.eq = false ∧
      t.flags.v = false

/-! ## Modular arithmetic commands -/

/-- R128 to R130: the exact residue of the sum, the difference and the product, or `OPERAND_RANGE`. -/
def Obligations.AddSubMulResults : Prop :=
  ∀ (s : State) (m : Modulus) (rd ra rb : Reg),
    Encoded (.fadd m rd ra rb) (formatR 0x10 false m.bit rd.bits ra.bits rb.bits 0) ∧
    Encoded (.fsub m rd ra rb) (formatR 0x11 false m.bit rd.bits ra.bits rb.bits 0) ∧
    Encoded (.fmul m rd ra rb) (formatR 0x12 false m.bit rd.bits ra.bits rb.bits 0) ∧
    (s.num ra < modulus m → s.num rb < modulus m →
      GivesNumber s (exec (.fadd m rd ra rb) s) rd ((s.num ra + s.num rb) % modulus m) ∧
      GivesNumber s (exec (.fsub m rd ra rb) s) rd
        (((s.num ra : Int) - (s.num rb : Int)) % (modulus m : Int)).toNat ∧
      GivesNumber s (exec (.fmul m rd ra rb) s) rd (s.num ra * s.num rb % modulus m)) ∧
    (modulus m ≤ s.num ra ∨ modulus m ≤ s.num rb →
      Errs s (exec (.fadd m rd ra rb) s) .operandRange ∧ Errs s (exec (.fsub m rd ra rb) s) .operandRange ∧
      Errs s (exec (.fmul m rd ra rb) s) .operandRange)

/-- R131: the power by the exponent, or by its negative modulo `m − 1`; only the base is range-checked. -/
def Obligations.PowResult : Prop :=
  ∀ (s : State) (m : Modulus) (neg : Bool) (rd ra rb : Reg),
    Encoded (.fpow m neg rd ra rb) (formatR 0x13 neg m.bit rd.bits ra.bits rb.bits 0) ∧
    (s.num ra < modulus m →
      (neg = false → GivesNumber s (exec (.fpow m neg rd ra rb) s) rd (s.num ra ^ s.num rb % modulus m)) ∧
      (neg = true → ∀ e : Nat, (e : Int) = -(s.num rb : Int) % ((modulus m : Int) - 1) →
        GivesNumber s (exec (.fpow m neg rd ra rb) s) rd (s.num ra ^ e % modulus m))) ∧
    (modulus m ≤ s.num ra → Errs s (exec (.fpow m neg rd ra rb) s) .operandRange)

/-- R132: the Fermat power of the source, which is the one inverse of it in `[1, m)`, with `Z` written 0; `OPERAND_RANGE`
when the source is too large; fatal `DIV_ZERO` when it is 0. -/
def Obligations.InverseResult : Prop :=
  ∀ (s : State) (m : Modulus) (rd ra : Reg),
    Encoded (.finv m rd ra) (formatR 0x14 false m.bit rd.bits ra.bits 0 0) ∧
    (0 < s.num ra → s.num ra < modulus m →
      GivesNumber s (exec (.finv m rd ra) s) rd (s.num ra ^ (modulus m - 2) % modulus m) ∧
      s.num ra ^ (modulus m - 2) % modulus m ≠ 0 ∧
      ∀ c, c < modulus m → (s.num ra * c % modulus m = 1 ↔ c = s.num ra ^ (modulus m - 2) % modulus m)) ∧
    (s.num ra = 0 → Dies s (exec (.finv m rd ra) s) .divZero) ∧
    (modulus m ≤ s.num ra → Errs s (exec (.finv m rd ra) s) .operandRange)

/-- R133: the dividend times the inverse of the divisor, whose product with the divisor is the dividend; the range check
comes before the fatal zero divisor. -/
def Obligations.DivisionResult : Prop :=
  ∀ (s : State) (m : Modulus) (rd ra rb : Reg),
    Encoded (.fdiv m rd ra rb) (formatR 0x15 false m.bit rd.bits ra.bits rb.bits 0) ∧
    (s.num ra < modulus m → 0 < s.num rb → s.num rb < modulus m →
      GivesNumber s (exec (.fdiv m rd ra rb) s) rd (s.num ra * (s.num rb ^ (modulus m - 2) % modulus m) % modulus m) ∧
      s.num ra * (s.num rb ^ (modulus m - 2) % modulus m) % modulus m * s.num rb % modulus m = s.num ra) ∧
    (s.num ra < modulus m → s.num rb = 0 → Dies s (exec (.fdiv m rd ra rb) s) .divZero) ∧
    (modulus m ≤ s.num ra ∨ modulus m ≤ s.num rb → Errs s (exec (.fdiv m rd ra rb) s) .operandRange)

/-- R134: both forms reduce any source, with no range check. -/
def Obligations.ReductionResults : Prop :=
  ∀ (s : State) (m : Modulus) (rd ra rb : Reg),
    Encoded (.mred m rd rb) (formatR 0x16 false m.bit rd.bits 0 rb.bits 0) ∧
    Encoded (.mredW m rd ra rb) (formatR 0x16 true m.bit rd.bits ra.bits rb.bits 0) ∧
    GivesNumber s (exec (.mred m rd rb) s) rd (s.num rb % modulus m) ∧
    GivesNumber s (exec (.mredW m rd ra rb) s) rd ((s.num ra * 2 ^ 256 + s.num rb) % modulus m)

/-- R135, R136: the two halves of the exact product. -/
def Obligations.WideProductHalves : Prop :=
  ∀ (s : State) (rd ra rb : Reg),
    Encoded (.mull rd ra rb) (formatR 0x17 false false rd.bits ra.bits rb.bits 0) ∧
    Encoded (.mulh rd ra rb) (formatR 0x18 false false rd.bits ra.bits rb.bits 0) ∧
    ∃ lo hi, lo < 2 ^ 256 ∧ hi * 2 ^ 256 + lo = s.num ra * s.num rb ∧
      GivesNumber s (exec (.mull rd ra rb) s) rd lo ∧ GivesNumber s (exec (.mulh rd ra rb) s) rd hi

/-- The sequence `MULH r4, r1, r2; MULL r3, r1, r2; MRED.W r5, r4, r3` gives what `FMUL r5, r1, r2` gives, for sources
below the modulus, when the first two do not overwrite a source still needed. -/
def Obligations.WideProductReducesToMul : Prop :=
  ∀ (s : State) (m : Modulus) (r1 r2 r3 r4 r5 : Reg), r4 ≠ r1 → r4 ≠ r2 → r3 ≠ r4 →
    s.num r1 < modulus m → s.num r2 < modulus m →
    ∃ t1 t2 t3 u, exec (.mulh r4 r1 r2) s = .next t1 ∧ exec (.mull r3 r1 r2) t1 = .next t2 ∧
      exec (.mredW m r5 r4 r3) t2 = .next t3 ∧ exec (.fmul m r5 r1 r2) s = .next u ∧
      t3.num r5 = u.num r5 ∧ t3.flags = u.flags

/-! ## Curve functions -/

/-- R152: the six cases of the group law, the coordinates of cases 5 and 6 said in the field of `p` elements, where the
divisor of the slope is a unit. Cases 1 to 4 hold of any stored coordinates; no valid point meets case 4. -/
def Obligations.GroupLawCases : Prop :=
  (∀ q : Point, pointAdd Config.curve .infinity q = q ∧ pointAdd Config.curve q .infinity = q) ∧
  (∀ x y1 y2 : Word256, y1 ≠ y2 → pointAdd Config.curve (.affine x y1) (.affine x y2) = .infinity) ∧
  (∀ x : Word256, pointAdd Config.curve (.affine x 0) (.affine x 0) = .infinity) ∧
  ∀ x1 y1 x2 y2 : Word256, (Point.affine x1 y1).valid Config.curve = true →
    (Point.affine x2 y2).valid Config.curve = true →
    let F := ZMod Config.curve.p
    let sum := pointAdd Config.curve (.affine x1 y1) (.affine x2 y2)
    (x1 = x2 → y1 = y2 → y1 ≠ 0 → ∃ (x3 y3 : Word256) (sl : F), sum = .affine x3 y3 ∧
      x3.toNat < Config.curve.p ∧ y3.toNat < Config.curve.p ∧ IsUnit (2 * (y1.toNat : F)) ∧
      sl * (2 * (y1.toNat : F)) = 3 * (x1.toNat : F) ^ 2 + (Config.curve.a : F) ∧
      (x3.toNat : F) = sl ^ 2 - 2 * (x1.toNat : F) ∧
      (y3.toNat : F) = sl * ((x1.toNat : F) - (x3.toNat : F)) - (y1.toNat : F)) ∧
    (x1 ≠ x2 → ∃ (x3 y3 : Word256) (sl : F), sum = .affine x3 y3 ∧
      x3.toNat < Config.curve.p ∧ y3.toNat < Config.curve.p ∧ IsUnit ((x2.toNat : F) - (x1.toNat : F)) ∧
      sl * ((x2.toNat : F) - (x1.toNat : F)) = (y2.toNat : F) - (y1.toNat : F) ∧
      (x3.toNat : F) = sl ^ 2 - (x1.toNat : F) - (x2.toNat : F) ∧
      (y3.toNat : F) = sl * ((x1.toNat : F) - (x3.toNat : F)) - (y1.toNat : F))

/-- R153: scalar multiplication is the loop over the 256 bits, least significant first; stopping after the highest set bit
gives the same; `Infinity` stays `Infinity`. -/
def Obligations.ScalarMulIsDoubleAndAdd : Prop :=
  ∀ (k : Nat) (pt : Point), k < 2 ^ 256 →
    let turn := fun (rc : Point × Point) (i : Nat) =>
      (if k.testBit i then pointAdd Config.curve rc.1 rc.2 else rc.1, pointAdd Config.curve rc.2 rc.2)
    scalarMul Config.curve k pt = ((List.range 256).foldl turn (.infinity, pt)).1 ∧
    (∀ bits, bits ≤ 256 → k < 2 ^ bits →
      scalarMul Config.curve k pt = ((List.range bits).foldl turn (.infinity, pt)).1) ∧
    scalarMul Config.curve 0 pt = .infinity ∧ scalarMul Config.curve k .infinity = .infinity

/-- `point_add` is the addition of the elliptic curve's group of points over the field of `p` elements. -/
def Obligations.PointAddRefinesCurveGroup : Prop :=
  letI : Fact (Nat.Prime Config.curve.p) := ⟨p_prime⟩
  (∀ pt : Point, pt.valid Config.curve = true → ∃ q, Represents pt q) ∧
  (∀ q, ∃ pt : Point, pt.valid Config.curve = true ∧ Represents pt q) ∧
  (∀ (p1 p2 : Point) (q : shortCurve.Point), p1.valid Config.curve = true → p2.valid Config.curve = true →
    Represents p1 q → Represents p2 q → p1 = p2) ∧
  ∀ (p1 p2 : Point) (q1 q2 : shortCurve.Point), p1.valid Config.curve = true → p2.valid Config.curve = true →
    Represents p1 q1 → Represents p2 q2 → Represents (pointAdd Config.curve p1 p2) (q1 + q2)

/-- `scalar_mul` is the multiple in that group. -/
def Obligations.ScalarMulRefinesCurveGroup : Prop :=
  letI : Fact (Nat.Prime Config.curve.p) := ⟨p_prime⟩
  ∀ (k : Nat) (pt : Point) (q : shortCurve.Point), k < 2 ^ 256 → pt.valid Config.curve = true → Represents pt q →
    Represents (scalarMul Config.curve k pt) (k • q)

/-- The valid points are an abelian group under `point_add`, with `Infinity` as identity. -/
def Obligations.ValidPointsFormAbelianGroup : Prop :=
  ∀ p1 p2 p3 : Point, p1.valid Config.curve = true → p2.valid Config.curve = true → p3.valid Config.curve = true →
    (pointAdd Config.curve p1 p2).valid Config.curve = true ∧ (negPoint p1).valid Config.curve = true ∧
    pointAdd Config.curve p1 p2 = pointAdd Config.curve p2 p1 ∧
    pointAdd Config.curve (pointAdd Config.curve p1 p2) p3 = pointAdd Config.curve p1 (pointAdd Config.curve p2 p3) ∧
    pointAdd Config.curve p1 .infinity = p1 ∧ pointAdd Config.curve p1 (negPoint p1) = .infinity

/-- R164: `n·G` is `Infinity`, no smaller positive multiple of `G` is, and sums of valid points are valid. -/
def Obligations.GeneratorHasOrderN : Prop :=
  scalarMul Config.curve Config.curve.n (generator Config.curve) = .infinity ∧
  (∀ k, 0 < k → k < Config.curve.n → scalarMul Config.curve k (generator Config.curve) ≠ .infinity) ∧
  ∀ p1 p2 : Point, p1.valid Config.curve = true → p2.valid Config.curve = true →
    (pointAdd Config.curve p1 p2).valid Config.curve = true

/-! ## Point commands -/

/-- R156: the point when both coordinates are below `p` and on the curve; else `OPERAND_RANGE` or
`POINT_NOT_ON_CURVE`. -/
def Obligations.PsetResult : Prop :=
  ∀ (s : State) (pd : PReg) (ra rb : Reg),
    let onIt := s.num rb ^ 2 % Config.curve.p = (s.num ra ^ 3 + 7) % Config.curve.p
    Encoded (.pset pd ra rb) (formatR 0x20 false false pd.bits ra.bits rb.bits 0) ∧
    (s.num ra < Config.curve.p → s.num rb < Config.curve.p → onIt →
      GivesPoint s (exec (.pset pd ra rb) s) pd (.affine (s.reg ra) (s.reg rb))) ∧
    (s.num ra < Config.curve.p → s.num rb < Config.curve.p → ¬ onIt →
      Errs s (exec (.pset pd ra rb) s) .pointNotOnCurve) ∧
    (Config.curve.p ≤ s.num ra ∨ Config.curve.p ≤ s.num rb → Errs s (exec (.pset pd ra rb) s) .operandRange)

/-- R157, R158, R163, R181: `PINF`, `PMOV`, `PLDG` and `PEQ` complete in every state; `G` is a valid point. -/
def Obligations.PointMoveResults : Prop :=
  ∀ (s : State) (pd pa pb : PReg),
    Encoded (.pinf pd) (formatR 0x21 false false pd.bits 0 0 0) ∧
    GivesPoint s (exec (.pinf pd) s) pd .infinity ∧
    Encoded (.pmov pd pa) (formatR 0x22 false false pd.bits pa.bits 0 0) ∧
    GivesPoint s (exec (.pmov pd pa) s) pd (s.point pa) ∧
    Encoded (.pldg pd) (formatR 0x28 false false pd.bits 0 0 0) ∧
    GivesPoint s (exec (.pldg pd) s) pd
      (.affine 0x79BE667EF9DCBBAC55A06295CE870B07029BFCDB2DCE28D959F2815B16F81798
        0x483ADA7726A3C4655DA4FBFC0E1108A8FD17B448A68554199C47D08FFB10D4B8) ∧
    (generator Config.curve).valid Config.curve = true ∧
    Encoded (.peq pa pb) (formatR 0x27 false false 0 pa.bits pb.bits 0) ∧
    Completes s (exec (.peq pa pb) s) (fun t =>
      t.regs = s.regs ∧ t.points = s.points ∧ t.key = s.key ∧
        t.flags = { s.flags with eq := decide (s.point pa = s.point pb) })

/-- `PADD` and `PMUL` complete in every state, with the sum and the multiple of R152 and R153; the scalar is any register
value. -/
def Obligations.PointArithmeticResults : Prop :=
  ∀ (s : State) (pd pa pb : PReg) (rb : Reg),
    Encoded (.padd pd pa pb) (formatR 0x23 false false pd.bits pa.bits pb.bits 0) ∧
    GivesPoint s (exec (.padd pd pa pb) s) pd (pointAdd Config.curve (s.point pa) (s.point pb)) ∧
    Encoded (.pmul pd pa rb) (formatR 0x24 false false pd.bits pa.bits rb.bits 0) ∧
    GivesPoint s (exec (.pmul pd pa rb) s) pd (scalarMul Config.curve (s.num rb) (s.point pa))

/-- R161, R162: a coordinate and the parity of `y`, or `POINT_AT_INFINITY`. -/
def Obligations.CoordinateReads : Prop :=
  ∀ (s : State) (rd : Reg) (pa : PReg),
    Encoded (.pgetx rd pa) (formatR 0x25 false false rd.bits pa.bits 0 0) ∧
    Encoded (.pgety rd pa) (formatR 0x26 false false rd.bits pa.bits 0 0) ∧
    (∀ x y, s.point pa = .affine x y →
      Completes s (exec (.pgetx rd pa) s) (fun t =>
        t.reg rd = x ∧ OnlyRegs [rd] s t ∧ t.flags = { s.flags with odd := decide (y.toNat % 2 = 1) }) ∧
      Completes s (exec (.pgety rd pa) s) (fun t =>
        t.reg rd = y ∧ OnlyRegs [rd] s t ∧ t.flags = { s.flags with odd := decide (y.toNat % 2 = 1) })) ∧
    (s.point pa = .infinity →
      Errs s (exec (.pgetx rd pa) s) .pointAtInfinity ∧ Errs s (exec (.pgety rd pa) s) .pointAtInfinity)

/-- R183: `PDEC` gives the point with the source as `x` and the `y` of the requested parity exactly when the curve has such
a point; that `y` is `(x³+7)^((p+1)/4)` or its negative. -/
def Obligations.DecompressionFindsThePoint : Prop :=
  ∀ (s : State) (odd : Bool) (pd : PReg) (ra : Reg),
    Encoded (.pdec odd pd ra) (formatR 0x29 odd false pd.bits ra.bits 0 0) ∧
    (∀ y : Nat, s.num ra < Config.curve.p → y < Config.curve.p → decide (y % 2 = 1) = odd →
      y ^ 2 % Config.curve.p = (s.num ra ^ 3 + 7) % Config.curve.p →
      GivesPoint s (exec (.pdec odd pd ra) s) pd (.affine (s.reg ra) (BitVec.ofNat 256 y)) ∧
      ∃ beta, beta = (s.num ra ^ 3 + 7) ^ ((Config.curve.p + 1) / 4) % Config.curve.p ∧
        (y = beta ∨ y = Config.curve.p - beta)) ∧
    (s.num ra < Config.curve.p →
      (∀ y : Nat, y < Config.curve.p → y ^ 2 % Config.curve.p ≠ (s.num ra ^ 3 + 7) % Config.curve.p) →
      Errs s (exec (.pdec odd pd ra) s) .pointNotOnCurve) ∧
    ((∃ y : Nat, y < Config.curve.p ∧ y ^ 2 % Config.curve.p = (s.num ra ^ 3 + 7) % Config.curve.p) →
      ∃ y : Nat, y < Config.curve.p ∧ decide (y % 2 = 1) = odd ∧
        y ^ 2 % Config.curve.p = (s.num ra ^ 3 + 7) % Config.curve.p) ∧
    (Config.curve.p ≤ s.num ra → Errs s (exec (.pdec odd pd ra) s) .operandRange)

/-- R185: taking an affine point apart into its SEC numbers and building it again gives the same point, by commands
(compressed with `PGETX` and `PDEC`, uncompressed with `PGETX`, `PGETY` and `PSET`) and by the host's byte strings. -/
def Obligations.SecRoundTrip : Prop :=
  ∀ (s : State) (pa pb : PReg) (r1 r2 : Reg) (x y : Word256), s.point pa = .affine x y →
    (s.point pa).valid Config.curve = true →
    (∃ t u w, exec (.pgetx r1 pa) s = .next t ∧ exec (.pdec t.flags.odd pb r1) t = .next u ∧
      exec (.peq pa pb) u = .next w ∧ u.err = s.err ∧ w.flags.eq = true) ∧
    (r1 ≠ r2 → ∃ t t' u w, exec (.pgetx r1 pa) s = .next t ∧ exec (.pgety r2 pa) t = .next t' ∧
      exec (.pset pb r1 r2) t' = .next u ∧ exec (.peq pa pb) u = .next w ∧ u.err = s.err ∧ w.flags.eq = true) ∧
    (∃ c, compressedSec (s.point pa) = some c ∧ c.length = 33 ∧ parseSec Config.curve c = some (s.point pa)) ∧
    ∃ c, uncompressedSec (s.point pa) = some c ∧ c.length = 65 ∧ parseSec Config.curve c = some (s.point pa)

/-! ## Key slot and ECDSA -/

/-- R221: the key slot filled from a secret in `[1, n)`, its public point `d·G`, never `Infinity`; else `KEY_RANGE` with
the slot as it was. -/
def Obligations.KeyloadResult : Prop :=
  ∀ (s : State) (ra : Reg),
    Encoded (.keyload ra) (formatR 0x30 false false 0 ra.bits 0 0) ∧
    (0 < s.num ra → s.num ra < Config.curve.n →
      Completes s (exec (.keyload ra) s) (fun t =>
        t.key.secret = s.reg ra ∧ t.key.pub = scalarMul Config.curve (s.num ra) (generator Config.curve) ∧
          t.key.valid = true ∧ t.regs = s.regs ∧ t.points = s.points ∧ t.flags = s.flags) ∧
      scalarMul Config.curve (s.num ra) (generator Config.curve) ≠ .infinity) ∧
    (s.num ra = 0 ∨ Config.curve.n ≤ s.num ra → Errs s (exec (.keyload ra) s) .keyRange)

/-- R222, R223: `KEYPUB` copies the cached point or ends with `NO_KEY`; `KEYCLR` empties the slot. -/
def Obligations.KeypubKeyclrResults : Prop :=
  ∀ (s : State) (pd : PReg),
    Encoded (.keypub pd) (formatR 0x31 false false pd.bits 0 0 0) ∧
    (s.key.valid = true → Completes s (exec (.keypub pd) s) (fun t =>
      t.point pd = s.key.pub ∧ OnlyPoint pd s t ∧ t.flags = { s.flags with inf := false })) ∧
    (s.key.valid = false → Errs s (exec (.keypub pd) s) .noKey) ∧
    Encoded .keyclr 0x32000000 ∧
    Completes s (exec .keyclr s) (fun t =>
      t.key.valid = false ∧ t.key.secret = 0 ∧ t.key.pub = .infinity ∧ t.regs = s.regs ∧ t.points = s.points ∧
        t.flags = s.flags)

/-- R225 over the model's form of its loop: without a key, `NO_KEY`; at an accepted candidate `KGEN` completes with it, at
another the command goes on with the next one (R351; one candidate a turn, and their count, are the model's own, log entry
3). So a `KGEN` just accepted, with the engine left to
run, writes the first candidate of the sequence that lies in `[1, n)`, after as many further steps as candidates were
passed over, and is running with no data changed until then. -/
def Obligations.KgenGivesFirstNonce : Prop :=
  ∀ (s : State) (rd ra : Reg),
    Encoded (.kgen rd ra) (formatR 0x33 false false rd.bits ra.bits 0 0) ∧
    (s.key.valid = false → Errs s (exec (.kgen rd ra) s) .noKey) ∧
    (∀ k, k = nonceCandidate Config.curve.n s.key.secret.toNat (s.num ra) s.nonceTry → s.key.valid = true →
      (1 ≤ k → k < Config.curve.n → Completes s (exec (.kgen rd ra) s) (fun t =>
        t.num rd = k ∧ OnlyRegs [rd] s t ∧ t.flags = s.flags)) ∧
      (¬ (1 ≤ k ∧ k < Config.curve.n) → exec (.kgen rd ra) s = .next { s with nonceTry := s.nonceTry + 1 })) ∧
    ∀ j : Nat, s.busy = true → s.cmd = encode (.kgen rd ra) → s.schedule = [] → s.nonceTry = 0 → s.key.valid = true →
      let k := nonceCandidate Config.curve.n s.key.secret.toNat (s.num ra)
      (∀ l, l < j → ¬ (1 ≤ k l ∧ k l < Config.curve.n)) → 1 ≤ k j → k j < Config.curve.n →
      (∀ l, l ≤ j → ∃ u, runSteps l s = .next u ∧ u.busy = true ∧ SameData s u) ∧
      ∃ t, runSteps (j + 1) s = .next t ∧ Succeeded s t ∧ t.num rd = k j ∧ OnlyRegs [rd] s t ∧ t.flags = s.flags

/-- `SIGN` at one candidate: the pair of R224 when the candidate, `r` and `s` pass their tests; else the command goes on
with the next candidate; without a key, `NO_KEY` (the count of candidates is the model's own, log entry 3). -/
def Obligations.SignAtOneCandidate : Prop :=
  ∀ (s : State) (rd re ra : Reg), rd ≠ re →
    let n := Config.curve.n
    let z := s.num ra
    let d := s.key.secret.toNat
    let k := nonceCandidate n d z s.nonceTry
    let raw := fun r : Nat => (z + r * d) * (k ^ (n - 2) % n) % n
    Encoded (.sign rd re ra) (formatR 0x34 false false rd.bits ra.bits 0 re.bits) ∧
    (s.key.valid = false → Errs s (exec (.sign rd re ra) s) .noKey) ∧
    (∀ x y, s.key.valid = true → 1 ≤ k → k < n → scalarMul Config.curve k (generator Config.curve) = .affine x y →
      (x.toNat % n ≠ 0 → raw (x.toNat % n) ≠ 0 →
        Completes s (exec (.sign rd re ra) s) (fun t =>
          t.num rd = x.toNat % n ∧
          t.num re = (if (n - 1) / 2 < raw (x.toNat % n) then n - raw (x.toNat % n) else raw (x.toNat % n)) ∧
          OnlyRegs [rd, re] s t ∧ t.flags = s.flags)) ∧
      (x.toNat % n = 0 ∨ raw (x.toNat % n) = 0 →
        exec (.sign rd re ra) s = .next { s with nonceTry := s.nonceTry + 1 })) ∧
    (s.key.valid = true → ¬ (1 ≤ k ∧ k < n) → exec (.sign rd re ra) s = .next { s with nonceTry := s.nonceTry + 1 })

/-- A `SIGN` just accepted, with the engine left to run, completes at the first candidate that gives a signature, both
halves written in that one step, and is running with no data changed until then (R224, R351; log entry 3). -/
def Obligations.SignUsesFirstUsableNonce : Prop :=
  ∀ (s : State) (rd re ra : Reg) (j : Nat) (r sv : Nat), rd ≠ re → s.busy = true → s.cmd = encode (.sign rd re ra) →
    s.schedule = [] → s.nonceTry = 0 → s.key.valid = true →
    (∀ l, l < j → signAt Config.curve s.key.secret.toNat (s.num ra) l = none) →
    signAt Config.curve s.key.secret.toNat (s.num ra) j = some (r, sv) →
    (∀ l, l ≤ j → ∃ u, runSteps l s = .next u ∧ u.busy = true ∧ SameData s u) ∧
    ∃ t, runSteps (j + 1) s = .next t ∧ Succeeded s t ∧ t.num rd = r ∧ t.num re = sv ∧ OnlyRegs [rd, re] s t ∧
      t.flags = s.flags

/-- Every signature `SIGN` writes is in range and has a low `s` (R224). -/
def Obligations.SignaturesAreLowS : Prop :=
  ∀ (s t : State) (rd re ra : Reg), rd ≠ re → s.key.valid = true → s.busy = true →
    exec (.sign rd re ra) s = .next t → t.busy = false →
    1 ≤ t.num rd ∧ t.num rd ≤ Config.curve.n - 1 ∧ 1 ≤ t.num re ∧ t.num re ≤ (Config.curve.n - 1) / 2

/-- R228: `VERIFY` completes in every state, and `V` is 1 exactly when `r` and `s` are in `[1, n)` and
`z·s⁻¹·G + r·s⁻¹·Q` is an affine point whose `x` is `r` modulo `n`; no register is written and there is no error. -/
def Obligations.VerifyResult : Prop :=
  ∀ (s : State) (pa : PReg) (ra rb rc : Reg),
    let n := Config.curve.n
    let w := s.num rc ^ (n - 2) % n
    Encoded (.verify pa ra rb rc) (formatR 0x35 false false pa.bits ra.bits rb.bits rc.bits) ∧
    Completes s (exec (.verify pa ra rb rc) s) fun t =>
      t.regs = s.regs ∧ t.points = s.points ∧ t.key = s.key ∧ t.flags = { s.flags with v := t.flags.v } ∧
      (t.flags.v = true ↔
        0 < s.num rb ∧ s.num rb < n ∧ 0 < s.num rc ∧ s.num rc < n ∧
        ∃ x y, pointAdd Config.curve (scalarMul Config.curve (s.num ra * w % n) (generator Config.curve))
            (scalarMul Config.curve (s.num rb * w % n) (s.point pa)) = .affine x y ∧
          x.toNat % n = s.num rb)

/-- A signature that `SIGN` writes is accepted by `VERIFY` under the public point of the same key slot. -/
def Obligations.SignedMessageVerifies : Prop :=
  ∀ (s t : State) (rd re ra : Reg) (pa : PReg), rd ≠ re → ra ≠ rd → ra ≠ re → s.key.ok → s.key.valid = true →
    s.busy = true → exec (.sign rd re ra) s = .next t → t.busy = false →
    ∃ u w, exec (.keypub pa) t = .next u ∧ exec (.verify pa ra rd re) u = .next w ∧ w.flags.v = true

/-- Byte strings: `BE32` has 32 bytes and `INT` reads it back; the padding of R202 is the shortest that fills whole
blocks; the digests and the buffers of the nonce derivation have 32 bytes. Where a message has 2^61 bytes or more, or the
secret is outside `[1, n)`, the clauses are of the model's choice, not of the rules (log entry 6). -/
def Obligations.HashByteLengths : Prop :=
  (∀ v : Word256, (be32 v).length = 32 ∧ intOf (be32 v) = v.toNat) ∧
  (∀ msg : Bytes, ∃ z, shaPad msg = msg ++ [0x80] ++ List.replicate z 0 ++
      ((List.range 8).map fun t => BitVec.ofNat 8 (8 * msg.length / 256 ^ (7 - t))) ∧
    (shaPad msg).length % 64 = 0 ∧ ∀ z', (msg.length + 1 + z' + 8) % 64 = 0 → z ≤ z') ∧
  (∀ msg : Bytes, (sha256 msg).length = 32) ∧ (∀ key msg : Bytes, (hmac key msg).length = 32) ∧
  ∀ n d z j, (nonceAt n d z j).v.length = 32 ∧ (nonceAt n d z j).k.length = 32 ∧ nonceCandidate n d z j < 2 ^ 256

/-! ## The host port -/

/-- R62: what a read of the window answers, location by location, and that nothing changes but `OVR_I` on a refused read
of the register file. -/
def Obligations.WindowReadMap : Prop :=
  ∀ s : State,
    (∀ off size, size ≠ 4 ∨ off % 4 ≠ 0 ∨ 0x400 ≤ off → memRead off size s = (.busError, s)) ∧
    memRead 0x000 4 s = (.data 0x4B310100, s) ∧ memRead 0x004 4 s = (.data 0, s) ∧
    memRead 0x008 4 s = (.data s.statusWord, s) ∧ memRead 0x00C 4 s = (.data s.cmd, s) ∧
    memRead 0x010 4 s = (.data (s.ien.setWidth 32), s) ∧ memRead 0x014 4 s = (.data (s.istat.setWidth 32), s) ∧
    (∀ off, off % 4 = 0 → 0x018 ≤ off → off ≤ 0x1FC → memRead off 4 s = (.data 0, s)) ∧
    ∀ (i : Reg) (j : Nat), j < 8 →
      ((s.busy = true ∨ s.fatal = true) →
        memRead (0x200 + 0x20 * i.val + 4 * j) 4 s = (.data 0, { s with istat := s.istat ||| 8 })) ∧
      (s.busy = false → s.fatal = false →
        memRead (0x200 + 0x20 * i.val + 4 * j) 4 s = (.data ((s.reg i).extractLsb' (32 * j) 32), s))

/-- R63, R69: what a write of the window does, location by location; an accept latches the word and sets the progress
fields in one step, and nothing else changes (`nonceTry`, the model's own, starts at 0: log entry 3). -/
def Obligations.WindowWriteMap : Prop :=
  ∀ (s : State) (v : Word32),
    (∀ off size, size ≠ 4 ∨ off % 4 ≠ 0 ∨ 0x400 ≤ off → memWrite off size v s = (.busError, s)) ∧
    memWrite 0x000 4 v s = (.ok, s) ∧ memWrite 0x008 4 v s = (.ok, s) ∧
    (v.getLsbD 0 = true → ∃ t, memWrite 0x004 4 v s = (.ok, t) ∧ IsReset t) ∧
    (v.getLsbD 0 = false → memWrite 0x004 4 v s = (.ok, s)) ∧
    ((s.busy = true ∨ s.fatal = true) → memWrite 0x00C 4 v s = (.ok, { s with istat := s.istat ||| 8 })) ∧
    (s.busy = false → s.fatal = false → memWrite 0x00C 4 v s =
      (.ok, { s with cmd := v, busy := true, done := false, err := false, code := .none, nonceTry := 0 })) ∧
    memWrite 0x010 4 v s = (.ok, { s with ien := v.extractLsb' 0 4 }) ∧
    memWrite 0x014 4 v s = (.ok, { s with istat := s.istat &&& ~~~(v.extractLsb' 0 4) }) ∧
    (∀ off, off % 4 = 0 → 0x018 ≤ off → off ≤ 0x1FC → memWrite off 4 v s = (.ok, s)) ∧
    ∀ (i : Reg) (j : Nat), j < 8 →
      ((s.busy = true ∨ s.fatal = true) →
        memWrite (0x200 + 0x20 * i.val + 4 * j) 4 v s = (.ok, { s with istat := s.istat ||| 8 })) ∧
      (s.busy = false → s.fatal = false →
        ∃ t, memWrite (0x200 + 0x20 * i.val + 4 * j) 4 v s = (.ok, t) ∧ t = { s with regs := t.regs } ∧
          (t.reg i).extractLsb' (32 * j) 32 = v ∧
          (∀ l, l < 8 → l ≠ j → (t.reg i).extractLsb' (32 * l) 32 = (s.reg i).extractLsb' (32 * l) 32) ∧
          ∀ r, r ≠ i → t.reg r = s.reg r)

/-- R70: while the block is engine-owned the host's accesses do what the rule lists, and no event of the host but a reset
changes the data, the command or its progress. -/
def Obligations.OwnedBlockRefusesHost : Prop :=
  ∀ s : State, (s.owned = true ↔ s.busy = true ∨ s.fatal = true) ∧
    (s.owned = true → OwnedAccess s ∧
      ∀ (e : Event) (t : State), e ≠ .engine → runEvent e s = .next t →
        (e.resets → IsReset t) ∧ (¬ e.resets → SameCore s t))

/-- The host script `SETR` leaves the value in the register and nothing else changed, and each read of `GETR` answers its
word of the register and changes nothing, `IEN` and `ISTAT` included (R102, R64; the schedule and reply are the model's own,
log entries 2 and 4). -/
def Obligations.RegisterScriptsMoveValues : Prop :=
  ∀ (s : State) (i : Reg) (v : Word256) (rest : List Event), s.owned = false →
    (s.schedule = scriptSetr i v ++ rest → ∃ t, runSteps 8 s = .next t ∧ t.reg i = v ∧
      (∀ r, r ≠ i → t.reg r = s.reg r) ∧ t = { s with regs := t.regs, schedule := rest, reply := some .ok }) ∧
    (s.schedule = scriptGetr i ++ rest → ∀ j, j < 8 →
      runSteps (j + 1) s = .next { s with
        schedule := (scriptGetr i).drop (j + 1) ++ rest, reply := some (.data ((s.reg i).extractLsb' (32 * j) 32)) })

/-- The window at its bus address: `BASE` is a multiple of 0x400, an access at `BASE + off` is the access at `off`, and any
other address gets the bus error and changes nothing (the last is the model's reading of R66, log entry 5). -/
def Obligations.BusAddressesReachWindow : Prop :=
  Config.base % 0x400 = 0 ∧
  ∀ (s : State) (addr size : Nat) (v : Word32),
    (∀ off, off < 0x400 → addr = Config.base + off →
      busRead addr size s = memRead off size s ∧ busWrite addr size v s = memWrite off size v s) ∧
    (addr < Config.base ∨ Config.base + 0x400 ≤ addr →
      busRead addr size s = (.busError, s) ∧ busWrite addr size v s = (.busError, s))

/-- The layout of `STATUS` (R33): every field at its bits, reserved bits 0. -/
def Obligations.StatusWordLayout : Prop :=
  ∀ s : State, s.statusWord.getLsbD 0 = s.busy ∧ s.statusWord.getLsbD 1 = s.done ∧ s.statusWord.getLsbD 2 = s.err ∧
    s.statusWord.getLsbD 3 = s.fatal ∧ s.statusWord.extractLsb' 4 4 = 0 ∧
    s.statusWord.extractLsb' 8 8 = s.code.toByte ∧ s.statusWord.getLsbD 16 = s.flags.z ∧
    s.statusWord.getLsbD 17 = s.flags.inf ∧ s.statusWord.getLsbD 18 = s.flags.odd ∧
    s.statusWord.getLsbD 19 = s.flags.eq ∧ s.statusWord.getLsbD 20 = s.flags.v ∧
    s.statusWord.getLsbD 21 = s.key.valid ∧ s.statusWord.extractLsb' 22 10 = 0

/-! ## Interrupt bits -/

/-- R310: a pending bit goes away only when the host writes 1 to it, or by a reset; every completion pends `DONE_I` again.
The write may reach `ISTAT` by its offset or by its bus address. -/
def Obligations.PendingBitsClearedOnlyByHost : Prop :=
  (∀ (s t : State) (k : Nat), step s = .next t → s.istat.getLsbD k = true → t.istat.getLsbD k = false →
    (∃ v : Word32, v.getLsbD k = true ∧ s.nextIs (Event.writesAt 0x014 v)) ∨ s.nextIs Event.resets) ∧
  ∀ (i : Instr) (s t : State), s.busy = true → exec i s = .next t → t.busy = false → t.istat.getLsbD 0 = true

/-- R308: a pending bit is set only by its own event, and each event sets its bit, enabled or not: `DONE_I` by a
completion, `ERR_I` by a recoverable error, `FATAL_I` by entering the fatal state, `OVR_I` by an access of the register file
or a write of `CMD` while the block is engine-owned, by offset or bus address. `IEN` only gates the output, which is 1
exactly when some enabled bit is pending (R36). A write of 1 to a bit, and a reset, clear it. -/
def Obligations.PendingBitsSetByTheirEvents : Prop :=
  (∀ s t : State, step s = .next t →
    (s.istat.getLsbD 0 = false → t.istat.getLsbD 0 = true → s.busy = true ∧ t.busy = false ∧ t.done = true) ∧
    (s.istat.getLsbD 1 = false → t.istat.getLsbD 1 = true → s.busy = true ∧ t.busy = false ∧ t.err = true) ∧
    (s.istat.getLsbD 2 = false → t.istat.getLsbD 2 = true → s.busy = true ∧ t.busy = false ∧ t.fatal = true) ∧
    (s.istat.getLsbD 3 = false → t.istat.getLsbD 3 = true → s.owned = true ∧ s.nextIs Event.refusable)) ∧
  (∀ s : State, s.irq = true ↔ ∃ k, k < 4 ∧ s.ien.getLsbD k = true ∧ s.istat.getLsbD k = true) ∧
  (∀ s t : State, s.busy = true → engineTurn s = .next t → t.busy = false →
    t.istat.getLsbD 0 = true ∧ (s.err = false → t.err = true → t.istat.getLsbD 1 = true) ∧
      (s.fatal = false → t.fatal = true → t.istat.getLsbD 2 = true)) ∧
  (∀ s t : State, step s = .next t →
    (s.owned = true → s.nextIs Event.refusable → t.istat.getLsbD 3 = true) ∧
    (∀ (v : Word32) (k : Nat), v.getLsbD k = true → s.nextIs (Event.writesAt 0x014 v) → t.istat.getLsbD k = false) ∧
    (s.nextIs Event.resets → t.istat = 0))

/-! ## Reset -/

/-- R41: the value of every piece of state after a reset. -/
def Obligations.ResetValues : Prop :=
  (∀ r, State.reset.num r = 0) ∧ (∀ q, State.reset.point q = .infinity) ∧ State.reset.key.valid = false ∧
    State.reset.key.secret = 0 ∧ State.reset.key.pub = .infinity ∧ State.reset.cmd = 0 ∧
    State.reset.flags = ⟨false, false, false, false, false⟩ ∧ State.reset.busy = false ∧ State.reset.done = false ∧
    State.reset.err = false ∧ State.reset.fatal = false ∧ State.reset.code.toByte = 0 ∧ State.reset.ien = 0 ∧
    State.reset.istat = 0 ∧ Config.idWord = 0x4B310100 ∧ engineTurn State.reset = .next State.reset

/-- R341, R342: either reset, in every state, busy or fatal too, leaves every piece of state at its reset value, so that
the latched command never completes; a `CTRL` write with bit 0 clear does nothing. What stays is the model's own schedule
and reply. -/
def Obligations.ResetsFromEveryState : Prop :=
  ∀ (s : State) (rest : List Event),
    (s.schedule = .hardReset :: rest → step s = .next { State.reset with schedule := rest, reply := s.reply }) ∧
    ∀ v : Word32, s.schedule = .write 0x004 4 v :: rest →
      (v.getLsbD 0 = true → step s = .next { State.reset with schedule := rest, reply := some .ok }) ∧
      (v.getLsbD 0 = false → step s = .next { s with schedule := rest, reply := some .ok })

/-! ## The invariant, and the secret -/

/-- The state after reset meets the invariant. -/
def Obligations.ResetMeetsInv : Prop := State.reset.Inv

/-- Every step keeps the invariant: every point register holds a valid point, the key slot's fields belong together, and
the progress fields agree (R24, R26, R33; `nonceTry` is the model's own, log entry 3). -/
def Obligations.StepKeepsInv : Prop := ∀ s t : State, s.Inv → step s = .next t → t.Inv

/-- Nothing learns the secret but `KGEN` and `SIGN`: any other step from two states that differ in `KEY.secret` alone
leaves states that differ in it alone, and answers the host alike (R26). -/
def Obligations.SecretHasNoOtherReader : Prop :=
  ∀ (s t : State) (d : Word256),
    (s.busy = true → s.engineNext → ∀ i, decode s.cmd = .ok i → searches i = false) →
    step s = .next t → ∃ t', step (s.withSecret d) = .next t' ∧ t' = t.withSecret t'.key.secret
end

