-- ==== Sys2Proof/Laws/Codecs.lean ====
section
/-! SUPPORT. Lengths of the byte strings behind an address: `hash160` gives 20 bytes, so the payload has 21 (R276, R278). -/

namespace Sys2Proof.Machine

@[simp] theorem ripemd160_length (msg : Bytes) : (ripemd160 msg).length = 20 := rfl

@[simp] theorem hash160_length (b : Bytes) : (hash160 b).length = 20 := rfl

/-- An address is the Base58Check text of a payload of 21 bytes, the first of them the network's version byte (R278). -/
theorem address_payload {pt : Point} {compressed : Bool} {net : Network} {text : List Char}
    (h : address pt compressed net = some text) :
    ∃ payload : Bytes, payload.length = 21 ∧ text = base58Check payload ∧
      payload.head? = some (if net = .mainnet then 0x00 else 0x6F) := by
  simp only [address, Option.map_eq_some_iff] at h
  obtain ⟨sec, _, rfl⟩ := h
  exact ⟨_, by rw [List.length_cons, hash160_length], rfl, by cases net <;> rfl⟩

/-- Every affine point has an address in either form; `Infinity` has none (R272, R278). -/
theorem address_isSome (pt : Point) (compressed : Bool) (net : Network) :
    (address pt compressed net).isSome = true ↔ pt ≠ .infinity := by
  cases pt <;> cases compressed <;> simp [address, compressedSec, uncompressedSec]

end Sys2Proof.Machine
end

