-- ==== Sys2Proof/Laws/Encoding.lean ====
section
/-! SUPPORT. The bits and the fields of an encoded word (R91, R92). -/

namespace Sys2Proof

section
variable (op : BitVec 8) (f m : Bool) (a b c d : BitVec 4) (imm : BitVec 16)

/-- Every bit of a format R word. -/
theorem formatR_getLsbD (k : Nat) : (formatR op f m a b c d).getLsbD k =
    if k < 4 then false else if k < 8 then d.getLsbD (k - 4) else if k < 12 then c.getLsbD (k - 8)
    else if k < 16 then b.getLsbD (k - 12) else if k < 20 then a.getLsbD (k - 16)
    else if k = 20 then m else if k = 21 then f else if k < 24 then false else op.getLsbD (k - 24) := by
  have h : @BitVec.getLsbD (8 + 2 + 1 + 1 + 4 + 4 + 4 + 4 + 4)
      (op ++ 0#2 ++ BitVec.ofBool f ++ BitVec.ofBool m ++ a ++ b ++ c ++ d ++ 0#4) k =
      if k < 4 then false else if k < 8 then d.getLsbD (k - 4) else if k < 12 then c.getLsbD (k - 8)
      else if k < 16 then b.getLsbD (k - 12) else if k < 20 then a.getLsbD (k - 16)
      else if k = 20 then m else if k = 21 then f else if k < 24 then false else op.getLsbD (k - 24) := by
    simp only [BitVec.getLsbD_append, BitVec.getLsbD_zero, BitVec.getLsbD_ofBool, Nat.sub_sub]
    by_cases h1 : k < 4
    · simp [h1]
    by_cases h2 : k < 8
    · simp [h1, h2, show k - 4 < 4 by omega]
    by_cases h3 : k < 12
    · simp [h1, h2, h3, show ¬ k - 4 < 4 by omega, show k - 8 < 4 by omega]
    by_cases h4 : k < 16
    · simp [h1, h2, h3, h4, show ¬ k - 4 < 4 by omega, show ¬ k - 8 < 4 by omega, show k - 12 < 4 by omega]
    by_cases h5 : k < 20
    · simp [h1, h2, h3, h4, h5, show ¬ k - 4 < 4 by omega, show ¬ k - 8 < 4 by omega, show ¬ k - 12 < 4 by omega,
        show k - 16 < 4 by omega]
    have g2 : ¬ k - 4 < 4 := by omega
    have g3 : ¬ k - 8 < 4 := by omega
    have g4 : ¬ k - 12 < 4 := by omega
    have g5 : ¬ k - 16 < 4 := by omega
    by_cases h6 : k = 20
    · subst h6; simp
    by_cases h7 : k = 21
    · subst h7; simp
    by_cases h8 : k < 24
    · simp [h1, h2, h3, h4, h5, h6, h7, h8, g2, g3, g4, g5, show k - 22 < 2 by omega,
        show ¬ k - 20 < 1 by omega, show ¬ k - 21 < 1 by omega]
    · simp [h1, h2, h3, h4, h5, h6, h7, h8, g2, g3, g4, g5, show ¬ k - 22 < 2 by omega,
        show ¬ k - 20 < 1 by omega, show ¬ k - 21 < 1 by omega]
  exact h

/-- Every bit of a format I word. -/
theorem formatI_getLsbD (k : Nat) : (formatI op a imm).getLsbD k =
    if k < 16 then imm.getLsbD k else if k < 20 then a.getLsbD (k - 16)
    else if k < 24 then false else op.getLsbD (k - 24) := by
  have h : @BitVec.getLsbD (8 + 4 + 4 + 16) (op ++ 0#4 ++ a ++ imm) k =
      if k < 16 then imm.getLsbD k else if k < 20 then a.getLsbD (k - 16)
      else if k < 24 then false else op.getLsbD (k - 24) := by
    simp only [BitVec.getLsbD_append, BitVec.getLsbD_zero, Nat.sub_sub]
    by_cases h1 : k < 16
    · simp [h1]
    by_cases h2 : k < 20
    · simp [h1, h2, show k - 16 < 4 by omega]
    by_cases h3 : k < 24
    · simp [h1, h2, h3, show ¬ k - 16 < 4 by omega, show k - 20 < 4 by omega]
    · simp [h1, h2, h3, show ¬ k - 16 < 4 by omega, show ¬ k - 20 < 4 by omega]
  exact h

/-! ## The fields of a word (R91, R92) -/

theorem formatR_op : (formatR op f m a b c d).extractLsb' 24 8 = op := by
  apply BitVec.eq_of_getLsbD_eq
  intro k hk
  rw [BitVec.getLsbD_extractLsb', formatR_getLsbD]
  simp [hk, show ¬ 24 + k < 4 by omega, show ¬ 24 + k < 8 by omega, show ¬ 24 + k < 12 by omega,
    show ¬ 24 + k < 16 by omega, show ¬ 24 + k < 20 by omega, show 24 + k ≠ 20 by omega, show 24 + k ≠ 21 by omega]

theorem formatR_upperZero : (formatR op f m a b c d).extractLsb' 22 2 = 0 := by
  apply BitVec.eq_of_getLsbD_eq
  intro k hk
  rw [BitVec.getLsbD_extractLsb', formatR_getLsbD]
  simp [hk, show ¬ 22 + k < 4 by omega, show ¬ 22 + k < 8 by omega, show ¬ 22 + k < 12 by omega,
    show ¬ 22 + k < 16 by omega, show ¬ 22 + k < 20 by omega, show 22 + k ≠ 20 by omega, show 22 + k ≠ 21 by omega,
    show 22 + k < 24 by omega]

theorem formatR_flag : (formatR op f m a b c d).getLsbD 21 = f := by
  rw [formatR_getLsbD]
  simp

theorem formatR_modulus : (formatR op f m a b c d).getLsbD 20 = m := by
  rw [formatR_getLsbD]
  simp

theorem formatR_fieldA : (formatR op f m a b c d).extractLsb' 16 4 = a := by
  apply BitVec.eq_of_getLsbD_eq
  intro k hk
  rw [BitVec.getLsbD_extractLsb', formatR_getLsbD]
  simp [hk, show ¬ 16 + k < 4 by omega, show ¬ 16 + k < 8 by omega, show ¬ 16 + k < 12 by omega,
    show 16 + k < 20 by omega]

theorem formatR_fieldB : (formatR op f m a b c d).extractLsb' 12 4 = b := by
  apply BitVec.eq_of_getLsbD_eq
  intro k hk
  rw [BitVec.getLsbD_extractLsb', formatR_getLsbD]
  simp [hk, show ¬ 12 + k < 4 by omega, show ¬ 12 + k < 8 by omega, show 12 + k < 16 by omega]

theorem formatR_fieldC : (formatR op f m a b c d).extractLsb' 8 4 = c := by
  apply BitVec.eq_of_getLsbD_eq
  intro k hk
  rw [BitVec.getLsbD_extractLsb', formatR_getLsbD]
  simp [hk, show ¬ 8 + k < 4 by omega, show 8 + k < 12 by omega]

theorem formatR_fieldD : (formatR op f m a b c d).extractLsb' 4 4 = d := by
  apply BitVec.eq_of_getLsbD_eq
  intro k hk
  rw [BitVec.getLsbD_extractLsb', formatR_getLsbD]
  simp [hk, show 4 + k < 8 by omega]

theorem formatR_lowZero : (formatR op f m a b c d).extractLsb' 0 4 = 0 := by
  apply BitVec.eq_of_getLsbD_eq
  intro k hk
  rw [BitVec.getLsbD_extractLsb', formatR_getLsbD]
  simp [hk]

theorem formatI_op : (formatI op a imm).extractLsb' 24 8 = op := by
  apply BitVec.eq_of_getLsbD_eq
  intro k hk
  rw [BitVec.getLsbD_extractLsb', formatI_getLsbD]
  simp [hk, show ¬ 24 + k < 16 by omega, show ¬ 24 + k < 20 by omega]

theorem formatI_fieldA : (formatI op a imm).extractLsb' 16 4 = a := by
  apply BitVec.eq_of_getLsbD_eq
  intro k hk
  rw [BitVec.getLsbD_extractLsb', formatI_getLsbD]
  simp [hk, show 16 + k < 20 by omega]

theorem formatI_imm : (formatI op a imm).extractLsb' 0 16 = imm := by
  apply BitVec.eq_of_getLsbD_eq
  intro k hk
  rw [BitVec.getLsbD_extractLsb', formatI_getLsbD]
  simp [hk]

theorem formatI_upperZero : (formatI op a imm).extractLsb' 20 4 = 0 := by
  apply BitVec.eq_of_getLsbD_eq
  intro k hk
  rw [BitVec.getLsbD_extractLsb', formatI_getLsbD]
  simp [hk, show ¬ 20 + k < 16 by omega, show 20 + k < 24 by omega]

theorem formatI_upperTwo : (formatI op a imm).extractLsb' 22 2 = 0 := by
  apply BitVec.eq_of_getLsbD_eq
  intro k hk
  rw [BitVec.getLsbD_extractLsb', formatI_getLsbD]
  simp [hk, show ¬ 22 + k < 16 by omega, show ¬ 22 + k < 20 by omega, show 22 + k < 24 by omega]

end

/-! ## Specifiers in fields (R94) -/

theorem regAt_bits {w : Word32} {lo : Nat} {r : Reg} (h : w.extractLsb' lo 4 = r.bits) : regAt lo w = r := by
  apply Fin.ext
  have hr := r.isLt
  show (w.extractLsb' lo 4).toNat % 16 = r.val
  rw [h]
  show r.val % 2 ^ 4 % 16 = r.val
  omega

theorem pregAt_bits {w : Word32} {lo : Nat} {r : PReg} (h : w.extractLsb' lo 4 = r.bits) : pregAt lo w = r := by
  apply Fin.ext
  have hr := r.isLt
  show (w.extractLsb' lo 2).toNat % 4 = r.val
  have h2 : w.extractLsb' lo 2 = (w.extractLsb' lo 4).extractLsb' 0 2 := by
    apply BitVec.eq_of_getLsbD_eq
    intro k hk
    simp [hk, show k < 4 by omega]
  rw [h2, h]
  show (r.val % 2 ^ 4) >>> 0 % 2 ^ 2 % 4 = r.val
  rw [Nat.shiftRight_zero]
  omega

end Sys2Proof
end

