-- ==== Sys2Proof/Laws/Exec.lean ====
section
/-! SUPPORT. What a command can do, said once: one inversion lemma for `exec`, over all commands. -/

namespace Sys2Proof.Machine

/-- Running `i` from `s` ends in one of these ways. -/
inductive ExecCase (i : Instr) (s : State) : Prop where
  /-- results are written and the command completes -/
  | done (u : State) (h : exec i s = .next (completeOk u)) (shell : SameShell s u)
  /-- a recoverable error of the command -/
  | error (c : Code) (h : exec i s = .next (completeError c s)) (raised : c ∈ codesRaised i)
      (recoverable : c.recoverable = true)
  /-- a zero divisor -/
  | fatal (h : exec i s = .next (enterFatal .divZero s)) (raised : Code.divZero ∈ codesRaised i)
  /-- a nonce candidate was passed over -/
  | running (h : exec i s = .next { s with nonceTry := s.nonceTry + 1 }) (search : searches i = true)

/-- Writing data leaves the shell alone. -/
theorem sameShell_of_data (s : State) (regs : Vector Word256 16) (points : Vector Point 4) (key : KeySlot)
    (flags : Flags) :
    SameShell s { s with regs := regs, points := points, key := key, flags := flags } :=
  ⟨rfl, rfl, rfl, rfl, rfl, rfl, rfl, rfl, rfl, rfl, rfl⟩

theorem binaryField_cases (f : Nat → Nat → Nat → Nat) (m : Modulus) (rd ra rb : Reg) (s : State) :
    (∃ u, binaryField f m rd ra rb s = .next (completeOk u) ∧ SameShell s u) ∨
      binaryField f m rd ra rb s = .next (completeError .operandRange s) := by
  unfold binaryField
  split
  · exact .inl ⟨_, rfl, sameShell_of_data s _ _ _ _⟩
  · exact .inr rfl

theorem readCoordinate_cases (coord : Word256 → Word256 → Word256) (rd : Reg) (pa : PReg) (s : State) :
    (∃ u, readCoordinate coord rd pa s = .next (completeOk u) ∧ SameShell s u) ∨
      readCoordinate coord rd pa s = .next (completeError .pointAtInfinity s) := by
  unfold readCoordinate
  split
  · exact .inr rfl
  · exact .inl ⟨_, rfl, sameShell_of_data s _ _ _ _⟩

/-- The inversion lemma. -/
theorem exec_cases (i : Instr) (s : State) : ExecCase i s := by
  cases i with
  | nop => exact .done s rfl (SameShell.refl s)
  | mov rd ra => exact .done _ rfl (sameShell_of_data s _ _ _ _)
  | ldi rd imm => exact .done _ rfl (sameShell_of_data s _ _ _ _)
  | zeroize => exact .done _ rfl (sameShell_of_data s _ _ _ _)
  | fadd m rd ra rb =>
    rcases binaryField_cases fadd m rd ra rb s with ⟨u, h, hs⟩ | h
    · exact .done u h hs
    · exact .error _ h (by simp [codesRaised]) rfl
  | fsub m rd ra rb =>
    rcases binaryField_cases fsub m rd ra rb s with ⟨u, h, hs⟩ | h
    · exact .done u h hs
    · exact .error _ h (by simp [codesRaised]) rfl
  | fmul m rd ra rb =>
    rcases binaryField_cases fmul m rd ra rb s with ⟨u, h, hs⟩ | h
    · exact .done u h hs
    · exact .error _ h (by simp [codesRaised]) rfl
  | fpow m neg rd ra rb =>
    by_cases h1 : s.inRange (modulus m) [ra] = true
    · exact .done _ (if_pos h1) (sameShell_of_data s _ _ _ _)
    · exact .error .operandRange (if_neg h1) (by simp [codesRaised]) rfl
  | finv m rd ra =>
    by_cases h1 : s.inRange (modulus m) [ra] = true
    · by_cases h2 : s.num ra = 0
      · exact .fatal ((if_pos h1).trans (if_pos h2)) (by simp [codesRaised])
      · exact .done _ ((if_pos h1).trans (if_neg h2)) (sameShell_of_data s _ _ _ _)
    · exact .error .operandRange (if_neg h1) (by simp [codesRaised]) rfl
  | fdiv m rd ra rb =>
    by_cases h1 : s.inRange (modulus m) [ra, rb] = true
    · by_cases h2 : s.num rb = 0
      · exact .fatal ((if_pos h1).trans (if_pos h2)) (by simp [codesRaised])
      · exact .done _ ((if_pos h1).trans (if_neg h2)) (sameShell_of_data s _ _ _ _)
    · exact .error .operandRange (if_neg h1) (by simp [codesRaised]) rfl
  | mred m rd rb => exact .done _ rfl (sameShell_of_data s _ _ _ _)
  | mredW m rd ra rb => exact .done _ rfl (sameShell_of_data s _ _ _ _)
  | mull rd ra rb => exact .done _ rfl (sameShell_of_data s _ _ _ _)
  | mulh rd ra rb => exact .done _ rfl (sameShell_of_data s _ _ _ _)
  | pset pd ra rb =>
    by_cases h1 : s.inRange Config.curve.p [ra, rb] = true
    · by_cases h2 : onCurve Config.curve (s.num ra) (s.num rb) = true
      · exact .done _ ((if_pos h1).trans (if_pos h2)) (sameShell_of_data s _ _ _ _)
      · exact .error .pointNotOnCurve ((if_pos h1).trans (if_neg h2)) (by simp [codesRaised]) rfl
    · exact .error .operandRange (if_neg h1) (by simp [codesRaised]) rfl
  | pinf pd => exact .done _ rfl (sameShell_of_data s _ _ _ _)
  | pmov pd pa => exact .done _ rfl (sameShell_of_data s _ _ _ _)
  | padd pd pa pb => exact .done _ rfl (sameShell_of_data s _ _ _ _)
  | pmul pd pa rb => exact .done _ rfl (sameShell_of_data s _ _ _ _)
  | pgetx rd pa =>
    rcases readCoordinate_cases (fun x _ => x) rd pa s with ⟨u, h, hs⟩ | h
    · exact .done u h hs
    · exact .error _ h (by simp [codesRaised]) rfl
  | pgety rd pa =>
    rcases readCoordinate_cases (fun _ y => y) rd pa s with ⟨u, h, hs⟩ | h
    · exact .done u h hs
    · exact .error _ h (by simp [codesRaised]) rfl
  | peq pa pb => exact .done _ rfl (sameShell_of_data s _ _ _ _)
  | pldg pd => exact .done _ rfl (sameShell_of_data s _ _ _ _)
  | pdec odd pd ra =>
    by_cases h1 : s.inRange Config.curve.p [ra] = true
    · cases h2 : decompress Config.curve (s.num ra) odd with
      | none =>
        refine .error .pointNotOnCurve ?_ (by simp [codesRaised]) rfl
        simp only [exec, execPdec, h1, h2, if_true, raiseError]
      | some v =>
        refine .done ((s.setPoint pd v).setInf false) ?_ (sameShell_of_data s _ _ _ _)
        simp only [exec, execPdec, h1, h2, if_true, complete]
    · exact .error .operandRange (if_neg h1) (by simp [codesRaised]) rfl
  | keyload ra =>
    by_cases h1 : s.num ra = 0 ∨ Config.curve.n ≤ s.num ra
    · exact .error .keyRange (if_pos h1) (by simp [codesRaised]) rfl
    · exact .done _ (if_neg h1) (sameShell_of_data s _ _ _ _)
  | keypub pd =>
    by_cases h1 : s.key.valid = true
    · exact .done _ (if_pos h1) (sameShell_of_data s _ _ _ _)
    · exact .error .noKey (if_neg h1) (by simp [codesRaised]) rfl
  | keyclr => exact .done _ rfl (sameShell_of_data s _ _ _ _)
  | kgen rd ra =>
    by_cases h1 : s.key.valid = true
    · by_cases h2 : nonceAccepted Config.curve.n
          (nonceCandidate Config.curve.n s.key.secret.toNat (s.num ra) s.nonceTry) = true
      · exact .done _ ((if_pos h1).trans (if_pos h2)) (sameShell_of_data s _ _ _ _)
      · exact .running ((if_pos h1).trans (if_neg h2)) rfl
    · exact .error .noKey (if_neg h1) (by simp [codesRaised]) rfl
  | sign rd re ra =>
    by_cases h1 : s.key.valid = true
    · cases h2 : signAt Config.curve s.key.secret.toNat (s.num ra) s.nonceTry with
      | none =>
        refine .running ?_ rfl
        simp only [exec, execSign, h1, h2, if_true, nextCandidate]
      | some p =>
        refine .done ((s.setReg rd (BitVec.ofNat 256 p.1)).setReg re (BitVec.ofNat 256 p.2)) ?_
          (sameShell_of_data s _ _ _ _)
        simp only [exec, execSign, h1, h2, if_true, complete]
    · exact .error .noKey (if_neg h1) (by simp [codesRaised]) rfl
  | verify pa ra rb rc => exact .done _ rfl (sameShell_of_data s _ _ _ _)

/-- A command always answers with a next state. -/
theorem exec_next (i : Instr) (s : State) : ∃ t, exec i s = .next t := by
  rcases exec_cases i s with ⟨u, h, _⟩ | ⟨c, h, _, _⟩ | ⟨h, _⟩ | ⟨h, _⟩ <;> exact ⟨_, h⟩

end Sys2Proof.Machine
end

