-- ==== Sys2Proof/Laws/Host.lean ====
section
/-! SUPPORT. What a host transaction can do, said once: the words of a register image, a read's effect, a write's
effect, an event's effect. -/

namespace Sys2Proof.Machine

/-! ## Words of a register image (R64) -/

/-- The bits of a register after one of its words is written. -/
theorem setWord_getLsbD (x : Word256) (j : Nat) (v : Word32) (k : Nat) (hk : k < 256) :
    (setWord x j v).getLsbD k = if 32 * j ≤ k ∧ k < 32 * j + 32 then v.getLsbD (k - 32 * j) else x.getLsbD k := by
  have hmask : ∀ n, (0xFFFFFFFF#256).getLsbD n = decide (n < 32) := by
    intro n
    rw [show (0xFFFFFFFF#256) = BitVec.setWidth 256 (BitVec.allOnes 32) from by decide, BitVec.getLsbD_setWidth,
      BitVec.getLsbD_allOnes]
    by_cases h : n < 32
    · simp [h]; omega
    · simp [h]
  unfold setWord
  rw [BitVec.getLsbD_or, BitVec.getLsbD_and, BitVec.getLsbD_not, BitVec.getLsbD_shiftLeft, BitVec.getLsbD_shiftLeft,
    hmask, BitVec.getLsbD_setWidth]
  by_cases h1 : 32 * j ≤ k
  · by_cases h2 : k < 32 * j + 32
    · have h3 : k - 32 * j < 32 := by omega
      have h4 : k - 32 * j < 256 := by omega
      have h5 : ¬ k < 32 * j := by omega
      simp [hk, h1, h2, h3, h4, h5]
    · have h3 : ¬ k - 32 * j < 32 := by omega
      have h5 : v.getLsbD (k - 32 * j) = false := BitVec.getLsbD_of_ge _ _ (by omega)
      simp [hk, h2, h3, h5]
  · have h2 : k < 32 * j := by omega
    simp [hk, h2, h1]

/-- Reading back the word written (R63, R64). -/
theorem wordOf_setWord_self (x : Word256) {j : Nat} (v : Word32) (hj : j < 8) : wordOf (setWord x j v) j = v := by
  apply BitVec.eq_of_getLsbD_eq
  intro k hk
  unfold wordOf
  rw [BitVec.getLsbD_extractLsb', setWord_getLsbD _ _ _ _ (by omega)]
  have h1 : 32 * j ≤ 32 * j + k ∧ 32 * j + k < 32 * j + 32 := by omega
  have h2 : 32 * j + k - 32 * j = k := by omega
  simp [h1, h2, hk]

/-- The other words are unchanged (R63). -/
theorem wordOf_setWord_ne (x : Word256) {j l : Nat} (v : Word32) (hl : l < 8) (h : l ≠ j) :
    wordOf (setWord x j v) l = wordOf x l := by
  apply BitVec.eq_of_getLsbD_eq
  intro k hk
  unfold wordOf
  rw [BitVec.getLsbD_extractLsb', BitVec.getLsbD_extractLsb', setWord_getLsbD _ _ _ _ (by omega)]
  have h1 : ¬ (32 * j ≤ 32 * l + k ∧ 32 * l + k < 32 * j + 32) := by omega
  simp [h1]

/-- A register is its eight words. -/
theorem word256_ext {x y : Word256} (h : ∀ j, j < 8 → wordOf x j = wordOf y j) : x = y := by
  apply BitVec.eq_of_getLsbD_eq
  intro k hk
  have hj := congrArg (fun w : Word32 => w.getLsbD (k % 32)) (h (k / 32) (by omega))
  simp only [wordOf, BitVec.getLsbD_extractLsb'] at hj
  have h1 : k % 32 < 32 := Nat.mod_lt _ (by decide)
  have h2 : 32 * (k / 32) + k % 32 = k := by omega
  simpa [h1, h2] using hj

/-! ## Offsets -/

theorem imageReg_offset (i : Reg) {j : Nat} (hj : j < 8) : imageReg (imageOffset i j) = i := by
  apply Fin.ext
  have hi := i.isLt
  show (0x200 + 0x20 * i.val + 4 * j - 0x200) / 0x20 % 16 = i.val
  omega

theorem imageWord_offset (i : Reg) {j : Nat} (hj : j < 8) : imageWord (imageOffset i j) = j := by
  show (0x200 + 0x20 * i.val + 4 * j - 0x200) % 0x20 / 4 = j
  omega

theorem validAccess_iff (off size : Nat) : validAccess off size = true ↔ size = 4 ∧ off % 4 = 0 ∧ off < 0x400 := by
  simp [validAccess]

theorem validAccess_imageOffset (i : Reg) {j : Nat} (hj : j < 8) : validAccess (imageOffset i j) 4 = true := by
  have hi := i.isLt
  rw [validAccess_iff]
  refine ⟨rfl, ?_, ?_⟩
  · show (0x200 + 0x20 * i.val + 4 * j) % 4 = 0
    omega
  · show 0x200 + 0x20 * i.val + 4 * j < 0x400
    omega

/-! ## Reads and writes -/

/-- A read changes nothing, but for `OVR_I` when it is refused (R62, R68). -/
theorem memRead_state (off size : Nat) (s : State) :
    (memRead off size s).2 = s ∨
      (validAccess off size = true ∧ 0x200 ≤ off ∧ s.owned = true ∧ memRead off size s = (.data 0, s.pend ovrI)) := by
  unfold memRead
  by_cases hv : validAccess off size = true
  · by_cases ho : 0x200 ≤ off ∧ s.owned = true
    · right
      refine ⟨hv, ho.1, ho.2, ?_⟩
      rw [if_pos hv, if_pos ho]
    · left
      rw [if_pos hv, if_neg ho]
  · left
    rw [if_neg hv]

/-- What a write can do (R63). -/
inductive WriteCase (off : Nat) (v : Word32) (s : State) : Prop where
  /-- a read-only, reserved or idle location -/
  | ignored (h : writeWindow off v s = s)
  /-- `CTRL.SRST` -/
  | reset (h : writeWindow off v s = softReset s) (at_ctrl : off = 0x004) (bit : v.getLsbD 0 = true)
  /-- `CMD` or the register file of an engine-owned block -/
  | refused (h : writeWindow off v s = s.pend ovrI) (owned : s.owned = true) (place : off = 0x00C ∨ 0x200 ≤ off)
  /-- `CMD` -/
  | accepted (h : writeWindow off v s = accept v s) (at_cmd : off = 0x00C) (free : s.owned = false)
  /-- `IEN` -/
  | enable (h : writeWindow off v s = { s with ien := v.setWidth 4 }) (at_ien : off = 0x010)
  /-- `ISTAT` -/
  | clear (h : writeWindow off v s = { s with istat := s.istat &&& ~~~(v.setWidth 4) }) (at_istat : off = 0x014)
  /-- a word of the register file -/
  | image (h : writeWindow off v s = writeImage off v s) (in_file : 0x200 ≤ off) (free : s.owned = false)

theorem writeWindow_cases (off : Nat) (v : Word32) (s : State) : WriteCase off v s := by
  by_cases h1 : off = 0x004
  · subst h1
    by_cases hb : v.getLsbD 0 = true
    · exact .reset (by rw [writeWindow, if_pos rfl, if_pos hb]) rfl hb
    · exact .ignored (by rw [writeWindow, if_pos rfl, if_neg hb])
  by_cases h2 : off = 0x00C
  · subst h2
    by_cases ho : s.owned = true
    · exact .refused (by rw [writeWindow, if_neg h1, if_pos rfl, if_pos ho]) ho (.inl rfl)
    · exact .accepted (by rw [writeWindow, if_neg h1, if_pos rfl, if_neg ho]) rfl (by simpa using ho)
  by_cases h3 : off = 0x010
  · subst h3
    exact .enable (by rw [writeWindow, if_neg h1, if_neg h2, if_pos rfl]) rfl
  by_cases h4 : off = 0x014
  · subst h4
    exact .clear (by rw [writeWindow, if_neg h1, if_neg h2, if_neg h3, if_pos rfl]) rfl
  by_cases h5 : off < 0x200
  · exact .ignored (by rw [writeWindow, if_neg h1, if_neg h2, if_neg h3, if_neg h4, if_pos h5])
  by_cases ho : s.owned = true
  · exact .refused (by rw [writeWindow, if_neg h1, if_neg h2, if_neg h3, if_neg h4, if_neg h5, if_pos ho]) ho
      (.inr (by omega))
  · exact .image (by rw [writeWindow, if_neg h1, if_neg h2, if_neg h3, if_neg h4, if_neg h5, if_neg ho])
      (by omega) (by simpa using ho)

/-- A write at a bad offset or size changes nothing (R66). -/
theorem memWrite_invalid {off size : Nat} (v : Word32) (s : State) (h : validAccess off size = false) :
    memWrite off size v s = (.busError, s) := by
  simp [memWrite, h]

theorem memWrite_valid {off size : Nat} (v : Word32) (s : State) (h : validAccess off size = true) :
    memWrite off size v s = (.ok, writeWindow off v s) := by
  simp [memWrite, h]

/-! ## Events -/

theorem busOffset_base {off : Nat} (h : off < 0x400) : busOffset (Config.base + off) = some off := by
  rw [busOffset, if_pos ⟨Nat.le_add_right _ _, by omega⟩, Nat.add_sub_cancel_left]

theorem busOffset_eq_some {addr off : Nat} (h : busOffset addr = some off) : addr = Config.base + off := by
  unfold busOffset at h
  split at h
  · simp only [Option.some.injEq] at h
    omega
  · cases h

/-- A read of a window offset, by offset or bus address, answers as `memRead` (R72). -/
theorem runEvent_readsAt {e : Event} {off : Nat} (s : State) (hoff : off < 0x400) (h : e.readsAt off) :
    runEvent e s = answered (memRead off 4 s) := by
  rcases h with rfl | rfl
  · rfl
  · simp [runEvent, busRead, busOffset_base hoff]

/-- A write of a window offset, by offset or bus address, acts as `writeWindow` (R63, R72). -/
theorem runEvent_writesAt {e : Event} {off : Nat} {v : Word32} (s : State) (hal : off % 4 = 0) (hoff : off < 0x400)
    (h : e.writesAt off v) : runEvent e s = answered (.ok, writeWindow off v s) := by
  have hv : memWrite off 4 v s = (.ok, writeWindow off v s) :=
    memWrite_valid v s ((validAccess_iff _ _).mpr ⟨rfl, hal, hoff⟩)
  rcases h with rfl | rfl
  · simp [runEvent, hv]
  · simp [runEvent, busWrite, busOffset_base hoff, hv]

/-- What an event that is not the engine's turn can do (R62, R63, R66, R341). -/
inductive EventCase (e : Event) (s : State) : Prop where
  /-- an access that changes nothing, or a bus error -/
  | quiet (r : Reply) (h : runEvent e s = .next { s with reply := some r })
  /-- the reset input, or `CTRL.SRST` -/
  | reset (r : Option Reply) (h : runEvent e s = .next { State.reset with schedule := s.schedule, reply := r })
      (event : e.resets)
  /-- an access of an engine-owned block -/
  | refused (r : Reply) (h : runEvent e s = .next { s.pend ovrI with reply := some r }) (event : e.refusable)
      (owned : s.owned = true)
  /-- a write of `CMD` -/
  | accepted (v : Word32) (h : runEvent e s = .next { accept v s with reply := some .ok }) (event : e.writesAt 0x00C v)
      (free : s.owned = false)
  /-- a write of `IEN` -/
  | enable (v : Word32) (h : runEvent e s = .next { s with ien := v.setWidth 4, reply := some .ok })
      (event : e.writesAt 0x010 v)
  /-- a write of `ISTAT` -/
  | clear (v : Word32) (h : runEvent e s = .next { s with istat := s.istat &&& ~~~(v.setWidth 4), reply := some .ok })
      (event : e.writesAt 0x014 v)
  /-- a write of a word of the register file -/
  | image (off : Nat) (v : Word32) (h : runEvent e s = .next { writeImage off v s with reply := some .ok })
      (event : e.writesAt off v) (free : s.owned = false)

/-- The reads, by offset and by bus address, once. -/
theorem EventCase.of_read {e : Event} {off size : Nat} (s : State) (h : runEvent e s = answered (memRead off size s))
    (event : size = 4 → e.readsAt off) : EventCase e s := by
  rcases memRead_state off size s with hq | ⟨hv, hoff, ho, hr⟩
  · exact .quiet (memRead off size s).1 (by rw [h, answered, hq])
  · obtain ⟨rfl, hal, hlt⟩ := (validAccess_iff _ _).mp hv
    exact .refused (.data 0) (by rw [h, hr]; rfl) (.inr ⟨off, hal, hoff, hlt, .inl (event rfl)⟩) ho

/-- The writes, by offset and by bus address, once. -/
theorem EventCase.of_write {e : Event} {off size : Nat} {v : Word32} (s : State)
    (h : runEvent e s = answered (memWrite off size v s)) (event : size = 4 → e.writesAt off v) : EventCase e s := by
  cases hv : validAccess off size with
  | false => exact .quiet .busError (by rw [h, memWrite_invalid v s hv]; rfl)
  | true =>
    obtain ⟨rfl, hal, hlt⟩ := (validAccess_iff _ _).mp hv
    rw [memWrite_valid v s hv] at h
    have ev := event rfl
    rcases writeWindow_cases off v s with hw | ⟨hw, rfl, hb⟩ | ⟨hw, ho, hp⟩ | ⟨hw, rfl, ho⟩ | ⟨hw, rfl⟩ | ⟨hw, rfl⟩ |
      ⟨hw, _, ho⟩ <;> rw [hw] at h
    · exact .quiet .ok h
    · exact .reset (some .ok) h (.inr ⟨v, hb, ev⟩)
    · refine .refused .ok h ?_ ho
      rcases hp with rfl | hp
      · exact .inl ⟨v, ev⟩
      · exact .inr ⟨off, hal, hp, hlt, .inr ⟨v, ev⟩⟩
    · exact .accepted v h ev ho
    · exact .enable v h ev
    · exact .clear v h ev
    · exact .image off v h ev ho

/-- The inversion lemma of the events. -/
theorem runEvent_cases (e : Event) (s : State) (he : e ≠ .engine) : EventCase e s := by
  cases e with
  | read off size => exact .of_read s rfl fun h => .inl (by rw [h])
  | write off size v => exact .of_write s rfl fun h => .inl (by rw [h])
  | busRead addr size =>
    cases ho : busOffset addr with
    | none => exact .quiet .busError (by simp [runEvent, busRead, ho, answered])
    | some off =>
      exact .of_read (off := off) (size := size) s (by simp [runEvent, busRead, ho])
        fun h => .inr (by rw [h, busOffset_eq_some ho])
  | busWrite addr size v =>
    cases ho : busOffset addr with
    | none => exact .quiet .busError (by simp [runEvent, busWrite, ho, answered])
    | some off =>
      exact .of_write (off := off) (size := size) (v := v) s (by simp [runEvent, busWrite, ho])
        fun h => .inr (by rw [h, busOffset_eq_some ho])
  | hardReset => exact .reset s.reply rfl (.inl rfl)
  | engine => exact absurd rfl he

/-- A reset does what it says, from any state (R341). -/
theorem runEvent_of_resets {e : Event} (s : State) (h : e.resets) :
    ∃ r, runEvent e s = .next { State.reset with schedule := s.schedule, reply := r } := by
  rcases h with rfl | ⟨v, hb, h⟩
  · exact ⟨_, rfl⟩
  · refine ⟨some .ok, ?_⟩
    rw [runEvent_writesAt s (by decide) (by decide) h, writeWindow, if_pos rfl, if_pos hb]
    rfl

/-- A refusable access of an engine-owned block pends `OVR_I` and nothing else (R70). -/
theorem runEvent_of_refusable {e : Event} (s : State) (ho : s.owned = true) (h : e.refusable) :
    ∃ r, runEvent e s = .next { s.pend ovrI with reply := some r } := by
  rcases h with ⟨v, h⟩ | ⟨off, hal, hlo, hhi, h | ⟨v, h⟩⟩
  · refine ⟨.ok, ?_⟩
    rw [runEvent_writesAt s (by decide) (by decide) h]
    simp [writeWindow, ho, answered]
  · refine ⟨.data 0, ?_⟩
    rw [runEvent_readsAt s hhi h, memRead, if_pos ((validAccess_iff _ _).mpr ⟨rfl, hal, hhi⟩), if_pos ⟨hlo, ho⟩]
    rfl
  · refine ⟨.ok, ?_⟩
    rw [runEvent_writesAt s hal hhi h]
    have h4 : off ≠ 0x004 := by omega
    have hC : off ≠ 0x00C := by omega
    have h10 : off ≠ 0x010 := by omega
    have h14 : off ≠ 0x014 := by omega
    have h200 : ¬ off < 0x200 := by omega
    simp [writeWindow, h4, hC, h10, h14, h200, ho, answered]

/-- A write of `CMD` to a block that is not engine-owned is an accept (R69). -/
theorem runEvent_of_writesCmd {e : Event} (s : State) (ho : s.owned = false) (h : e.writesCmd) :
    ∃ v, runEvent e s = .next { accept v s with reply := some .ok } := by
  obtain ⟨v, h⟩ := h
  refine ⟨v, ?_⟩
  rw [runEvent_writesAt s (by decide) (by decide) h]
  simp [writeWindow, ho, answered]

/-! ## The event of a step -/

theorem step_nil {s : State} (hs : s.schedule = []) : step s = engineTurn s := by simp [step, runNext, hs]

theorem step_cons {s : State} {e : Event} {rest : List Event} (hs : s.schedule = e :: rest) :
    step s = runEvent e { s with schedule := rest } := by simp [step, runNext, hs]

@[simp] theorem runSteps_zero (s : State) : runSteps 0 s = .next s := rfl

theorem runSteps_succ {s t : State} (k : Nat) (h : step s = .next t) : runSteps (k + 1) s = runSteps k t := by
  simp [runSteps, Host.Core.run, Sys2Proof.core, h]

theorem State.nextIs_cons {s : State} {e : Event} {rest : List Event} (P : Event → Prop) (hs : s.schedule = e :: rest) :
    s.nextIs P ↔ P e := by
  refine ⟨fun ⟨e', rest', h, hp⟩ => ?_, fun h => ⟨e, rest, hs, h⟩⟩
  rw [hs] at h
  cases h
  exact hp

theorem State.not_nextIs_nil {s : State} (P : Event → Prop) (hs : s.schedule = []) : ¬ s.nextIs P := by
  rintro ⟨e, rest, h, _⟩
  rw [hs] at h
  cases h

@[simp] theorem Event.not_readsAt_engine (off : Nat) : ¬ Event.engine.readsAt off := by rintro (h | h) <;> cases h

@[simp] theorem Event.not_writesAt_engine (off : Nat) (v : Word32) : ¬ Event.engine.writesAt off v := by
  rintro (h | h) <;> cases h

@[simp] theorem Event.not_resets_engine : ¬ Event.engine.resets := by simp [Event.resets]

@[simp] theorem Event.not_writesCmd_engine : ¬ Event.engine.writesCmd := by simp [Event.writesCmd]

@[simp] theorem Event.not_refusable_engine : ¬ Event.engine.refusable := by simp [Event.refusable]

end Sys2Proof.Machine
end

