-- ==== Sys2Proof/Laws/PerInstr.lean ====
section
/-! SUPPORT. Laws stated once per command: the bits that every command word has fixed. -/

namespace Sys2Proof.Laws.FixedBits

/-- The opcode of a command (R96). -/
def opcode : Instr → BitVec 8
  | .nop => 0x00
  | .mov _ _ => 0x01
  | .ldi _ _ => 0x02
  | .zeroize => 0x03
  | .fadd _ _ _ _ => 0x10
  | .fsub _ _ _ _ => 0x11
  | .fmul _ _ _ _ => 0x12
  | .fpow _ _ _ _ _ => 0x13
  | .finv _ _ _ => 0x14
  | .fdiv _ _ _ _ => 0x15
  | .mred _ _ _ => 0x16
  | .mredW _ _ _ _ => 0x16
  | .mull _ _ _ => 0x17
  | .mulh _ _ _ => 0x18
  | .pset _ _ _ => 0x20
  | .pinf _ => 0x21
  | .pmov _ _ => 0x22
  | .padd _ _ _ => 0x23
  | .pmul _ _ _ => 0x24
  | .pgetx _ _ => 0x25
  | .pgety _ _ => 0x26
  | .peq _ _ => 0x27
  | .pldg _ => 0x28
  | .pdec _ _ _ => 0x29
  | .keyload _ => 0x30
  | .keypub _ => 0x31
  | .keyclr => 0x32
  | .kgen _ _ => 0x33
  | .sign _ _ _ => 0x34
  | .verify _ _ _ _ => 0x35

/-- Bits 31:24 of the command's word are its opcode and bits 23:22 are zero (R91, R92). -/
def Statement (i : Instr) : Prop := (encode i).extractLsb' 24 8 = opcode i ∧ (encode i).extractLsb' 22 2 = 0

theorem nop : Statement (.nop) := ⟨formatR_op _ _ _ _ _ _ _, formatR_upperZero _ _ _ _ _ _ _⟩

theorem mov (rd : Reg) (ra : Reg) : Statement (.mov rd ra) := ⟨formatR_op _ _ _ _ _ _ _, formatR_upperZero _ _ _ _ _ _ _⟩

theorem ldi (rd : Reg) (imm : BitVec 16) : Statement (.ldi rd imm) := ⟨formatI_op _ _ _, formatI_upperTwo _ _ _⟩

theorem zeroize : Statement (.zeroize) := ⟨formatR_op _ _ _ _ _ _ _, formatR_upperZero _ _ _ _ _ _ _⟩

theorem fadd (m : Modulus) (rd : Reg) (ra : Reg) (rb : Reg) : Statement (.fadd m rd ra rb) := ⟨formatR_op _ _ _ _ _ _ _, formatR_upperZero _ _ _ _ _ _ _⟩

theorem fsub (m : Modulus) (rd : Reg) (ra : Reg) (rb : Reg) : Statement (.fsub m rd ra rb) := ⟨formatR_op _ _ _ _ _ _ _, formatR_upperZero _ _ _ _ _ _ _⟩

theorem fmul (m : Modulus) (rd : Reg) (ra : Reg) (rb : Reg) : Statement (.fmul m rd ra rb) := ⟨formatR_op _ _ _ _ _ _ _, formatR_upperZero _ _ _ _ _ _ _⟩

theorem fpow (m : Modulus) (neg : Bool) (rd : Reg) (ra : Reg) (rb : Reg) : Statement (.fpow m neg rd ra rb) := ⟨formatR_op _ _ _ _ _ _ _, formatR_upperZero _ _ _ _ _ _ _⟩

theorem finv (m : Modulus) (rd : Reg) (ra : Reg) : Statement (.finv m rd ra) := ⟨formatR_op _ _ _ _ _ _ _, formatR_upperZero _ _ _ _ _ _ _⟩

theorem fdiv (m : Modulus) (rd : Reg) (ra : Reg) (rb : Reg) : Statement (.fdiv m rd ra rb) := ⟨formatR_op _ _ _ _ _ _ _, formatR_upperZero _ _ _ _ _ _ _⟩

theorem mred (m : Modulus) (rd : Reg) (rb : Reg) : Statement (.mred m rd rb) := ⟨formatR_op _ _ _ _ _ _ _, formatR_upperZero _ _ _ _ _ _ _⟩

theorem mredW (m : Modulus) (rd : Reg) (ra : Reg) (rb : Reg) : Statement (.mredW m rd ra rb) := ⟨formatR_op _ _ _ _ _ _ _, formatR_upperZero _ _ _ _ _ _ _⟩

theorem mull (rd : Reg) (ra : Reg) (rb : Reg) : Statement (.mull rd ra rb) := ⟨formatR_op _ _ _ _ _ _ _, formatR_upperZero _ _ _ _ _ _ _⟩

theorem mulh (rd : Reg) (ra : Reg) (rb : Reg) : Statement (.mulh rd ra rb) := ⟨formatR_op _ _ _ _ _ _ _, formatR_upperZero _ _ _ _ _ _ _⟩

theorem pset (pd : PReg) (ra : Reg) (rb : Reg) : Statement (.pset pd ra rb) := ⟨formatR_op _ _ _ _ _ _ _, formatR_upperZero _ _ _ _ _ _ _⟩

theorem pinf (pd : PReg) : Statement (.pinf pd) := ⟨formatR_op _ _ _ _ _ _ _, formatR_upperZero _ _ _ _ _ _ _⟩

theorem pmov (pd : PReg) (pa : PReg) : Statement (.pmov pd pa) := ⟨formatR_op _ _ _ _ _ _ _, formatR_upperZero _ _ _ _ _ _ _⟩

theorem padd (pd : PReg) (pa : PReg) (pb : PReg) : Statement (.padd pd pa pb) := ⟨formatR_op _ _ _ _ _ _ _, formatR_upperZero _ _ _ _ _ _ _⟩

theorem pmul (pd : PReg) (pa : PReg) (rb : Reg) : Statement (.pmul pd pa rb) := ⟨formatR_op _ _ _ _ _ _ _, formatR_upperZero _ _ _ _ _ _ _⟩

theorem pgetx (rd : Reg) (pa : PReg) : Statement (.pgetx rd pa) := ⟨formatR_op _ _ _ _ _ _ _, formatR_upperZero _ _ _ _ _ _ _⟩

theorem pgety (rd : Reg) (pa : PReg) : Statement (.pgety rd pa) := ⟨formatR_op _ _ _ _ _ _ _, formatR_upperZero _ _ _ _ _ _ _⟩

theorem peq (pa : PReg) (pb : PReg) : Statement (.peq pa pb) := ⟨formatR_op _ _ _ _ _ _ _, formatR_upperZero _ _ _ _ _ _ _⟩

theorem pldg (pd : PReg) : Statement (.pldg pd) := ⟨formatR_op _ _ _ _ _ _ _, formatR_upperZero _ _ _ _ _ _ _⟩

theorem pdec (odd : Bool) (pd : PReg) (ra : Reg) : Statement (.pdec odd pd ra) := ⟨formatR_op _ _ _ _ _ _ _, formatR_upperZero _ _ _ _ _ _ _⟩

theorem keyload (ra : Reg) : Statement (.keyload ra) := ⟨formatR_op _ _ _ _ _ _ _, formatR_upperZero _ _ _ _ _ _ _⟩

theorem keypub (pd : PReg) : Statement (.keypub pd) := ⟨formatR_op _ _ _ _ _ _ _, formatR_upperZero _ _ _ _ _ _ _⟩

theorem keyclr : Statement (.keyclr) := ⟨formatR_op _ _ _ _ _ _ _, formatR_upperZero _ _ _ _ _ _ _⟩

theorem kgen (rd : Reg) (ra : Reg) : Statement (.kgen rd ra) := ⟨formatR_op _ _ _ _ _ _ _, formatR_upperZero _ _ _ _ _ _ _⟩

theorem sign (rd : Reg) (re : Reg) (ra : Reg) : Statement (.sign rd re ra) := ⟨formatR_op _ _ _ _ _ _ _, formatR_upperZero _ _ _ _ _ _ _⟩

theorem verify (pa : PReg) (ra : Reg) (rb : Reg) (rc : Reg) : Statement (.verify pa ra rb rc) := ⟨formatR_op _ _ _ _ _ _ _, formatR_upperZero _ _ _ _ _ _ _⟩

end Sys2Proof.Laws.FixedBits
end

