-- ==== Sys2Proof/Tests/Slice0.lean ====
section
/-! SUPPORT. The model's own tests. Expected values are those of spec/95_test_vectors.md and of the examples in the rules
named; words of commands are written out from the patterns of R96. The theorems `test_met_<Name>` show states and operands
that meet the hypotheses of `Obligations.<Name>`. -/

namespace Sys2Proof.Tests

open Sys2Proof.Machine

set_option Elab.async false

/-! ## Helpers -/

/-- Registers loaded from reset. -/
def loaded : List (Reg × Nat) → State
  | [] => State.reset
  | (i, v) :: rest => (loaded rest).setReg i (BitVec.ofNat 256 v)

/-- The outcome is a next state that passes the test. -/
def ends (o : Result) (f : State → Bool) : Bool :=
  match o with
  | .next t => f t
  | .fault _ => false
  | .refused _ => false

/-- The step that runs a word passes the test. -/
def runs (s : State) (w : Nat) (f : State → Bool) : Bool := ends (step (s.withFetchWord 32 w)) f

theorem exists_of_ends {o : Result} {f : State → Bool} (h : ends o f = true) : ∃ t, o = .next t ∧ f t = true := by
  cases o with
  | next t => exact ⟨t, rfl, h⟩
  | fault r => cases r
  | refused r => exact absurd h (by simp [ends])

def p : Nat := Config.curve.p
def n : Nat := Config.curve.n
def a0 : Nat := 0x123456789ABCDEF0FEDCBA9876543210123456789ABCDEF0FEDCBA9876543210
def b0 : Nat := 0xDEADBEEFCAFEBABE0123456789ABCDEF00112233445566778899AABBCCDDEEFF
def top : Nat := 2 ^ 256 - 1
def gx : Nat := 0x79BE667EF9DCBBAC55A06295CE870B07029BFCDB2DCE28D959F2815B16F81798
def gy : Nat := 0x483ADA7726A3C4655DA4FBFC0E1108A8FD17B448A68554199C47D08FFB10D4B8
def negGy : Nat := 0xB7C52588D95C3B9AA25B0403F1EEF75702E84BB7597AABE663B82F6F04EF2777
def pointG : Point := affineNat gx gy
def point2G : Point := affineNat 0xC6047F9441ED7D6D3045406E95C07CD85C778E4B8CEF3CA7ABAC09B95C709EE5
  0x1AE168FEA63DC339A3C58419466CEAEEF7F632653266D0E1236431A950CFE52A
def point7G : Point := affineNat 0x5CBDF0646E5DB4EAA398F365F2EA7A0E3D419B7E0330E39CE92BDDEDCAC4F9BC
  0x6AEBCA40BA255960A3178D6D861A54DBA813D0B813FDE7B5A5082628087264DA
/-- The message scalar, nonce and signature of R226's first example, secret 1. -/
def zSat : Nat := 0xA0DC65FFCA799873CBEA0AC274015B9526505DAAAED385155425F7337704883E
def kSat : Nat := 0x8F8A276C19F4149656B280621E358CCE24F5F52542772691EE69063B74F15D15
def rSat : Nat := 0x934B1EA10A4B3C1757E2B0C017D0B6143CE3C9A7E6A4A49860D7A6AB210EE3D8
def sSat : Nat := 0x2442CE9D2B916064108014783E923EC36B49743E2FFA1C4496F01A512AAFD9E5
/-- The key of secret 1: its public point is `G` (R221). -/
def keyOne : KeySlot := ⟨true, 1, pointG⟩
/-- A busy state with a word latched, as an accept leaves it. -/
def latched (s : State) (w : Nat) : State := accept (BitVec.ofNat 32 w) s

/-- The state with these events to come. -/
def scheduled (events : List Event) (s : State) : State := { s with schedule := events }

/-! ## Well-formedness (R97) -/

theorem test_wf_sign_same_destination : (Instr.sign 1 1 2).wf = false ∧ (Instr.sign 15 15 0).wf = false := by decide

theorem test_wf_sign : (Instr.sign 1 2 3).wf = true ∧ (Instr.sign 0 15 0).wf = true := by decide

theorem test_decode_sign_same_destination : decode 0b00110100000000010010000000010000 = .error .signSameDestination := by
  decide

/-! ## Decoding: words written out from the patterns of R96 -/

theorem test_decode_system :
    decode 0b00000000000000000000000000000000 = .ok .nop ∧
    decode 0b00000001000000100001000000000000 = .ok (.mov 2 1) ∧
    decode 0b00000010000011111000000000000001 = .ok (.ldi 15 0x8001) ∧
    decode 0b00000011000000000000000000000000 = .ok .zeroize := by decide

theorem test_decode_field_low :
    decode 0b00010000000000110001001000000000 = .ok (.fadd .p 3 1 2) ∧
    decode 0b00010001000111110001001000000000 = .ok (.fsub .n 15 1 2) ∧
    decode 0b00010010000000110001111000000000 = .ok (.fmul .p 3 1 14) ∧
    decode 0b00010011001101000101011000000000 = .ok (.fpow .n true 4 5 6) ∧
    decode 0b00010011000001000101011000000000 = .ok (.fpow .p false 4 5 6) := by decide

theorem test_decode_field_high :
    decode 0b00010100000100100001000000000000 = .ok (.finv .n 2 1) ∧
    decode 0b00010101000000110001001000000000 = .ok (.fdiv .p 3 1 2) ∧
    decode 0b00010110000100010000001000000000 = .ok (.mred .n 1 2) ∧
    decode 0b00010110001000010011001000000000 = .ok (.mredW .p 1 3 2) ∧
    decode 0b00010111000000110001001000000000 = .ok (.mull 3 1 2) ∧
    decode 0b00011000000001000001001000000000 = .ok (.mulh 4 1 2) := by decide

theorem test_decode_point_low :
    decode 0b00100000000000010010001100000000 = .ok (.pset 1 2 3) ∧
    decode 0b00100001000000110000000000000000 = .ok (.pinf 3) ∧
    decode 0b00100010000000110001000000000000 = .ok (.pmov 3 1) ∧
    decode 0b00100011000000000001001000000000 = .ok (.padd 0 1 2) ∧
    decode 0b00100100000000100000100100000000 = .ok (.pmul 2 0 9) := by decide

theorem test_decode_point_high :
    decode 0b00100101000001010010000000000000 = .ok (.pgetx 5 2) ∧
    decode 0b00100110000001100011000000000000 = .ok (.pgety 6 3) ∧
    decode 0b00100111000000000010000100000000 = .ok (.peq 2 1) ∧
    decode 0b00101000000000110000000000000000 = .ok (.pldg 3) ∧
    decode 0b00101001001000111000000000000000 = .ok (.pdec true 3 8) ∧
    decode 0b00101001000000111000000000000000 = .ok (.pdec false 3 8) := by decide

theorem test_decode_ecdsa :
    decode 0b00110000000000001111000000000000 = .ok (.keyload 15) ∧
    decode 0b00110001000000010000000000000000 = .ok (.keypub 1) ∧
    decode 0b00110010000000000000000000000000 = .ok .keyclr ∧
    decode 0b00110011000001000011000000000000 = .ok (.kgen 4 3) ∧
    decode 0b00110100000000010011000000100000 = .ok (.sign 1 2 3) ∧
    decode 0b00110101000000010011000100100000 = .ok (.verify 1 3 1 2) := by decide

/-- One word for each entry of R97's list. -/
theorem test_decode_illegal :
    ([0x04000000, 0x0F000000, 0x19000000, 0x1F000000, 0x2A000000, 0x36000000, 0xFF000000, 0x00400000, 0x10831200,
      0x00000001, 0x10031201, 0x01121000, 0x10231200, 0x01021100, 0x10031210, 0x30011000, 0x20041200, 0x22014000,
      0x23000004, 0x16010200 + 0x3000, 0x02100007, 0x34012010] : List Word32).all
      (fun w => match decode w with | .error _ => true | .ok _ => false) = true := by decide

theorem test_encode_table :
    encode (.fpow .p true 4 5 6) = 0x13245600 ∧ encode (.mredW .n 1 3 2) = 0x16313200 ∧
    encode (.sign 1 2 3) = 0x34013020 ∧ encode (.verify 1 3 1 2) = 0x35013120 ∧
    encode (.ldi 15 0xFFFF) = 0x020FFFFF ∧ encode (.peq 0 1) = 0x27000100 := by decide

/-- R101 and R100. -/
theorem test_pseudo_and_assembly :
    encode (pseudoPdbl 2 1) = 0x23021100 ∧ encode (pseudoClr 0) = 0x02000000 ∧
    asm (.fpow .n true 4 5 6) = "FPOW.N.NEG r4, r5, r6" ∧ asm (.ldi 1 7) = "LDI r1, 7" ∧
    asm (.pdec true 3 8) = "PDEC.O P3, r8" := by decide

/-! ## Commands, from reset with the registers named: a result and `STATUS` (R33) -/

theorem test_nop_status : runs State.reset 0x00000000 (fun t => t.statusWord == 0x00000002 && t.istat == 1) = true := by
  decide +kernel

theorem test_mov_copies : runs (loaded [(1, top)]) 0x01021000 (fun t => t.num 2 == top && t.statusWord == 2) = true := by
  decide +kernel

theorem test_ldi_zero_extends :
    runs (loaded [(15, top)]) 0x020FFFFF (fun t => t.num 15 == 65535 && t.statusWord == 2) = true := by decide +kernel

theorem test_zeroize_clears :
    runs { loaded [(3, 5)] with key := keyOne, flags := ⟨true, true, true, true, true⟩, ien := 5 } 0x03000000
      (fun t => t.num 3 == 0 && t.key == .empty && t.statusWord == 2 && t.ien == 5) = true := by decide +kernel

theorem test_fadd_wraps :
    runs (loaded [(1, p - 1), (2, 1)]) 0x10031200 (fun t => t.num 3 == 0 && t.statusWord == 0x00010002) = true := by
  decide +kernel

theorem test_fadd_range :
    runs (loaded [(1, 1), (2, p), (3, 9)]) 0x10031200 (fun t => t.num 3 == 9 && t.statusWord == 0x00000206) = true := by
  decide +kernel

theorem test_fsub_wraps :
    runs (loaded [(2, 1)]) 0x11031200 (fun t => t.num 3 == p - 1 && t.statusWord == 2) = true := by decide +kernel

theorem test_fsub_order :
    runs (loaded [(1, a0), (2, b0)]) 0x11031200 (fun t =>
      t.num 3 == 0x33869788CFBE2432FDB97530ECA86421122334455667787976430FDBA9763F40) = true := by decide +kernel

theorem test_fmul_near_modulus :
    runs (loaded [(1, p - 1), (2, p - 1)]) 0x12031200 (fun t => t.num 3 == 1 && t.statusWord == 2) = true := by
  decide +kernel

theorem test_fmul_n :
    runs (loaded [(1, a0), (2, b0)]) 0x12131200 (fun t =>
      t.num 3 == 0x22872F9FF5B5725D81F49DF330C62A104665F1E26052F909BA69FE850D8DF78A) = true := by decide +kernel

theorem test_fpow_cube :
    runs (loaded [(5, a0), (6, 3)]) 0x13045600 (fun t =>
      t.num 4 == 0x04C84D0DBF1F98B0BD82ED64554609FCF3EBC76EAE69E64DA9E3D4462234A295) = true := by decide +kernel

/-- `0^(−(p−1)) = 0^0 = 1` (R131). -/
theorem test_fpow_neg_zero_base :
    runs (loaded [(6, p - 1)]) 0x13245600 (fun t => t.num 4 == 1 && t.statusWord == 2) = true := by decide +kernel

theorem test_finv_two :
    runs (loaded [(1, 2)]) 0x14021000 (fun t =>
      t.num 2 == 0x7FFFFFFFFFFFFFFFFFFFFFFFFFFFFFFFFFFFFFFFFFFFFFFFFFFFFFFF7FFFFE18 && t.statusWord == 2) = true := by
  decide +kernel

theorem test_finv_zero_fatal :
    runs (loaded [(2, 7)]) 0x14021000 (fun t => t.num 2 == 7 && t.statusWord == 0x0000800A && t.istat == 5) = true := by
  decide +kernel

theorem test_fdiv_quotient :
    runs (loaded [(1, a0), (2, b0)]) 0x15031200 (fun t =>
      t.num 3 == 0x4F630FF69C5F9E5BC90D59372B0EDC68D82CF64A612A27DE8411895579A15817) = true := by decide +kernel

theorem test_fdiv_range_before_zero :
    runs (loaded [(1, p)]) 0x15031200 (fun t => t.statusWord == 0x00000206) = true := by decide +kernel

theorem test_mred_n_of_p :
    runs (loaded [(2, p)]) 0x16110200 (fun t => t.num 1 == 0x14551231950B75FC4402DA1722FC9BAEE) = true := by
  decide +kernel

theorem test_mred_wide :
    runs (loaded [(3, 1)]) 0x16213200 (fun t => t.num 1 == 0x1000003D1 && t.statusWord == 2) = true := by decide +kernel

theorem test_mull_low :
    runs (loaded [(1, top), (2, top)]) 0x17031200 (fun t => t.num 3 == 1 && t.statusWord == 2) = true := by
  decide +kernel

theorem test_mulh_high :
    runs (loaded [(1, top), (2, top)]) 0x18041200 (fun t => t.num 4 == 2 ^ 256 - 2 && t.statusWord == 2) = true := by
  decide +kernel

theorem test_pset_generator :
    runs (loaded [(2, gx), (3, gy)]) 0x20012300 (fun t => t.point 1 == pointG && t.statusWord == 2) = true := by
  decide +kernel

theorem test_pset_off_curve :
    runs (loaded [(2, 1), (3, 1)]) 0x20012300 (fun t => t.point 1 == .infinity && t.statusWord == 0x00000306) = true := by
  decide +kernel

theorem test_pinf_flag :
    runs (State.reset.setPoint 3 pointG) 0x21030000 (fun t => t.point 3 == .infinity && t.statusWord == 0x00020002)
      = true := by decide +kernel

theorem test_pmov_copies :
    runs (State.reset.setPoint 1 pointG) 0x22031000 (fun t => t.point 3 == pointG && t.statusWord == 2) = true := by
  decide +kernel

theorem test_padd_doubles :
    runs (State.reset.setPoint 1 pointG) 0x23021100 (fun t => t.point 2 == point2G && t.statusWord == 2) = true := by
  decide +kernel

theorem test_padd_inverse :
    runs ((State.reset.setPoint 1 pointG).setPoint 0 (affineNat gx negGy)) 0x23031000
      (fun t => t.point 3 == .infinity && t.statusWord == 0x00020002) = true := by decide +kernel

theorem test_pmul_seven :
    runs ((loaded [(9, 7)]).setPoint 0 pointG) 0x24020900 (fun t => t.point 2 == point7G && t.statusWord == 2) = true := by
  decide +kernel

theorem test_pmul_order :
    runs ((loaded [(9, n)]).setPoint 0 pointG) 0x24020900
      (fun t => t.point 2 == .infinity && t.statusWord == 0x00020002) = true := by decide +kernel

theorem test_pgetx_even :
    runs (State.reset.setPoint 2 point2G) 0x25052000 (fun t =>
      t.num 5 == 0xC6047F9441ED7D6D3045406E95C07CD85C778E4B8CEF3CA7ABAC09B95C709EE5 && t.statusWord == 2) = true := by
  decide +kernel

theorem test_pgetx_infinity : runs State.reset 0x25052000 (fun t => t.statusWord == 0x00000406) = true := by
  decide +kernel

theorem test_pgety_odd :
    runs (State.reset.setPoint 2 (affineNat gx negGy)) 0x26062000
      (fun t => t.num 6 == negGy && t.statusWord == 0x00040002) = true := by decide +kernel

theorem test_peq_infinity : runs State.reset 0x27000100 (fun t => t.statusWord == 0x00080002) = true := by
  decide +kernel

theorem test_peq_different :
    runs { State.reset.setPoint 0 pointG with flags := ⟨false, false, false, true, false⟩ } 0x27000100
      (fun t => t.statusWord == 2) = true := by decide +kernel

theorem test_pldg_generator :
    runs State.reset 0x28030000 (fun t => t.point 3 == pointG && t.statusWord == 2) = true := by decide +kernel

theorem test_pdec_odd :
    runs (loaded [(8, gx)]) 0x29238000 (fun t => t.point 3 == affineNat gx negGy && t.statusWord == 2) = true := by
  decide +kernel

theorem test_pdec_no_root : runs (loaded [(8, 5)]) 0x29038000 (fun t => t.statusWord == 0x00000306) = true := by
  decide +kernel

theorem test_keyload_one :
    runs (loaded [(0, 1)]) 0x30000000 (fun t => t.key == keyOne && t.statusWord == 0x00200002) = true := by decide +kernel

theorem test_keyload_range :
    runs { loaded [(0, n)] with key := keyOne } 0x30000000
      (fun t => t.key == keyOne && t.statusWord == 0x00200606) = true := by decide +kernel

theorem test_keypub_copies :
    runs { State.reset with key := keyOne } 0x31010000 (fun t => t.point 1 == pointG && t.statusWord == 0x00200002)
      = true := by decide +kernel

theorem test_keypub_no_key : runs State.reset 0x31010000 (fun t => t.statusWord == 0x00000506) = true := by
  decide +kernel

theorem test_keyclr_empties :
    runs { State.reset with key := keyOne } 0x32000000 (fun t => t.key == .empty && t.statusWord == 2) = true := by
  decide +kernel

theorem test_kgen_no_key : runs State.reset 0x33043000 (fun t => t.statusWord == 0x00000506) = true := by decide +kernel

theorem test_sign_no_key : runs State.reset 0x34013020 (fun t => t.statusWord == 0x00000506) = true := by decide +kernel

theorem test_verify_accepts :
    runs ((loaded [(3, zSat), (1, rSat), (2, sSat)]).setPoint 1 pointG) 0x35013120
      (fun t => t.statusWord == 0x00100002) = true := by decide +kernel

theorem test_verify_zero_r :
    runs { (loaded [(3, zSat), (2, sSat)]).setPoint 1 pointG with flags := ⟨false, false, false, false, true⟩ } 0x35013120
      (fun t => t.statusWord == 2) = true := by decide +kernel

/-- A word off the opcode map (R97), data kept. -/
theorem test_illegal_word :
    runs (loaded [(3, 9)]) 0x04000000 (fun t => t.num 3 == 9 && t.statusWord == 0x00000106 && t.istat == 3) = true := by
  decide +kernel

/-! ## Hashes and the nonce (R203, R204, R206, R226) -/

theorem test_sha256_abc :
    sha256 [0x61, 0x62, 0x63] = be32 0xba7816bf8f01cfea414140de5dae2223b00361a396177a9cb410ff61f20015ad := by
  decide +kernel

theorem test_hmac_hi_there :
    hmac (List.replicate 20 0x0B) [0x48, 0x69, 0x20, 0x54, 0x68, 0x65, 0x72, 0x65] =
      be32 0xb0344c61d8db38535ca8afceaf0bf12b881dc200c9833da726e9376c2e32cff7 := by decide +kernel

theorem test_nonce_candidate : nonceCandidate Config.curve.n 1 zSat 0 = kSat := by decide +kernel

theorem test_sign_with_nonce : signWith Config.curve 1 zSat kSat = some (rSat, sSat) := by decide +kernel

theorem test_sign_at : signAt Config.curve 1 zSat 0 = some (rSat, sSat) := by
  have h : nonceAccepted Config.curve.n kSat = true := by decide
  simp only [signAt, test_nonce_candidate, h, if_true, test_sign_with_nonce]

/-- The key of secret 1 in the slot and the message scalar in `r3`. -/
def signer : State := { loaded [(3, zSat)] with key := keyOne }

theorem signer_num : (latched signer 0x33043000).num 3 = zSat ∧ (latched signer 0x34013020).num 3 = zSat := by decide

theorem test_kgen_nonce : exec (.kgen 4 3) (latched signer 0x33043000) =
    complete ((latched signer 0x33043000).setReg 4 (BitVec.ofNat 256 kSat)) := by
  have hc : nonceCandidate Config.curve.n (latched signer 0x33043000).key.secret.toNat
      ((latched signer 0x33043000).num 3) (latched signer 0x33043000).nonceTry = kSat := by
    rw [signer_num.1]
    exact test_nonce_candidate
  have hv : (latched signer 0x33043000).key.valid = true := rfl
  have ha : nonceAccepted Config.curve.n kSat = true := by decide
  simp only [exec, execKgen, hv, if_true, hc, ha]

theorem test_sign_pair : exec (.sign 1 2 3) (latched signer 0x34013020) =
    complete (((latched signer 0x34013020).setReg 1 (BitVec.ofNat 256 rSat)).setReg 2 (BitVec.ofNat 256 sSat)) := by
  have hc : signAt Config.curve (latched signer 0x34013020).key.secret.toNat
      ((latched signer 0x34013020).num 3) (latched signer 0x34013020).nonceTry = some (rSat, sSat) := by
    rw [signer_num.2]
    exact test_sign_at
  have hv : (latched signer 0x34013020).key.valid = true := rfl
  simp only [exec, execSign, hv, if_true, hc]

/-! ## The host port -/

/-- R64's example: `r3 = 1`. -/
theorem test_image_words :
    (memRead 0x260 4 (loaded [(3, 1)])).1 = .data 1 ∧ (memRead 0x264 4 (loaded [(3, 1)])).1 = .data 0 ∧
    (memRead 0x27C 4 (loaded [(3, 1)])).1 = .data 0 := by decide

theorem test_read_id_and_edges :
    (memRead 0x000 4 State.reset).1 = .data 0x4B310100 ∧ (memRead 0x3FC 4 State.reset).1 = .data 0 ∧
    (memRead 0x400 4 State.reset).1 = .busError ∧ (memRead 0x002 4 State.reset).1 = .busError ∧
    (memRead 0x000 8 State.reset).1 = .busError := by decide

theorem test_refused_while_busy :
    (memWrite 0x3FC 4 5 (latched State.reset 0)).2 = { latched State.reset 0 with istat := 8 } ∧
    (memWrite 0x00C 4 5 (latched State.reset 0)).2 = { latched State.reset 0 with istat := 8 } ∧
    memRead 0x200 4 (latched (loaded [(0, 7)]) 0) = (.data 0, { latched (loaded [(0, 7)]) 0 with istat := 8 }) := by
  decide

theorem test_w1c : (memWrite 0x014 4 0xFFFFFFF5 { State.reset with istat := 7 }).2.istat = 2 := by decide

theorem test_soft_reset_in_fatal :
    (memWrite 0x004 4 1 (enterFatal .divZero (loaded [(1, 3)]))).2 = State.reset := by decide

/-- `SETR r3, v` by eight writes, then `GETR` of the top word. -/
theorem test_scripts :
    ends (runSteps 16 { State.reset with schedule := scriptSetr 3 (BitVec.ofNat 256 b0) ++ scriptGetr 3 })
      (fun t => t.num 3 == b0 && t.reply == some (.data 0xDEADBEEF)) = true := by decide +kernel

/-- `LDI r1, 7` accepted, run, and read back in the window, as a host does it. -/
theorem test_host_program :
    ends (runSteps 4 { State.reset with schedule := scriptCmd (.ldi 1 7) ++ [.engine] ++ scriptPoll ++ [.read 0x220 4] })
      (fun t => t.reply == some (.data 7) && t.done) = true := by decide +kernel

/-! ## Host byte strings (R272, R273, R275, R276, R278, R279) -/

theorem test_der_example : toDer 0x80 0x7F = [0x30, 0x07, 0x02, 0x02, 0x00, 0x80, 0x02, 0x01, 0x7f] := by decide +kernel

theorem test_base58_leading_zeros : base58 [0x00, 0x00, 0x01] = "112".toList ∧ base58 [0xFF] = "5Q".toList := by
  decide +kernel

theorem test_sec_compressed :
    (compressedSec (affineNat gx negGy)).map (·.take 2) = some [0x03, 0x79] := by decide +kernel

theorem test_hash160_empty : hash160 [] = (be32 0xb472a266d0bd89c13706a4132ccfb16f7c3b9fcb).drop 12 := by decide +kernel

/-- The public point of the secret `888³` (R279). -/
def point888 : Point := affineNat 0x70A9B78B89EAB10067AC93D72A255238121936007FA99A73A2F59A3693A730D1
  0x6246823AF005EA17AB93D7D8806E57199FC116F88C257195DBAE98475C478214

theorem test_keyload_888 :
    runs (loaded [(0, 888 ^ 3)]) 0x30000000 (fun t => t.key.pub == point888 && t.statusWord == 0x00200002) = true := by
  decide +kernel

theorem test_hash160_888 :
    (compressedSec point888).map hash160 = some ((be32 0x2259c9cc3016e4ec0109b15b09e752ae5a08a51f).drop 12) ∧
    (uncompressedSec point888).map hash160 = some ((be32 0x4d7928ded7b18188ded5c77221b085614784d431).drop 12) := by
  decide +kernel

theorem test_address_888 :
    address point888 true .mainnet = some "148dY81A9BmdpMhvYEVznrM45kWN32vSCN".toList ∧
    address point888 false .testnet = some "mnabU9NCcRE5zcNZ2C16CnvKPELrFvisn3".toList := by decide +kernel

/-! ## Witnesses for the hypotheses of the statements -/

/-- A state with data in it, a key, and an idle engine after a success. -/
def sample : State :=
  { ((loaded [(1, a0), (2, b0), (3, p - 1), (4, p), (5, top), (6, 1)]).setPoint 1 pointG).setPoint 2 point2G with
    key := keyOne, done := true, ien := 3 }

theorem keyOne_ok : keyOne.ok := .inr ⟨by decide, by decide, by decide +kernel⟩

theorem sample_inv : sample.Inv where
  points := by decide +kernel
  key := keyOne_ok
  status := .inr (.inl ⟨rfl, rfl, rfl, rfl⟩)
  tries := fun _ => rfl

/-- At the largest operands of three formats. -/
theorem test_met_DecodeOfEncode :
    (Instr.verify 3 15 15 15).wf = true ∧ (Instr.sign 15 0 15).wf = true ∧ (Instr.ldi 15 0xFFFF).wf = true := by decide

theorem test_met_EncodeOfDecode :
    decode 0x340FF000 = .ok (.sign 15 0 15) ∧ decode 0x020FFFFF = .ok (.ldi 15 0xFFFF) ∧
    decode 0x3503FFF0 = .ok (.verify 3 15 15 15) := by decide

theorem test_met_OpcodeRowsDisjoint :
    (11 < rows.length) ∧ (rows[10]).mnemonic = "MRED" ∧ Row.hit 0x16010200 rows[10] = true ∧
    Row.hit 0x16210200 rows[11] = true := by decide

/-- The words of `test_decode_illegal` are on the list, and the states exist. -/
theorem test_met_IllegalWordsCompleteWithError :
    ([0x04000000, 0x0F000000, 0x19000000, 0x1F000000, 0x2A000000, 0x36000000, 0xFF000000, 0x00400000, 0x10831200,
      0x00000001, 0x10031201, 0x01121000, 0x10231200, 0x01021100, 0x10031210, 0x30011000, 0x20041200, 0x22014000,
      0x23000004, 0x16013200, 0x02100007, 0x34012010] : List Word32).all illegalByList = true ∧
    State.reset.owned = false ∧ (latched sample 0x34012010).busy = true ∧
    (latched sample 0x34012010).cmd = 0x34012010 := by decide

theorem test_met_StepRunsDecodedCommand :
    (latched sample 0x10031200).busy = true ∧ decode (latched sample 0x10031200).cmd = .ok (.fadd .p 3 1 2) ∧
    (latched sample 0x10031200).schedule = [] ∧
    { latched sample 0x10031200 with schedule := [.engine, .read 8 4] }.schedule = .engine :: [.read 8 4] ∧
    decodeTableWord 32 0x10031200 = some (.fadd .p 3 1 2) ∧ decodeTableWord 8 0 = some .nop := by decide

theorem test_met_StepRunsHostTransaction :
    memRead 8 4 { sample with schedule := [] } = (.data sample.statusWord, { sample with schedule := [] }) ∧
    (memWrite 0x3FC 4 7 { sample with schedule := [] }).1 = .ok ∧ sample.busy = false ∧ sample.schedule = [] ∧
    (scheduled [.busRead (Config.base + 0x220) 4] sample).schedule = .busRead (Config.base + 0x220) 4 :: [] ∧
    busRead (Config.base + 0x220) 4 sample = (.data 0x76543210, sample) ∧
    (scheduled [.busWrite (Config.base + 0x3FC) 4 7] sample).schedule = .busWrite (Config.base + 0x3FC) 4 7 :: [] ∧
    (busWrite (Config.base + 0x3FC) 4 7 sample).1 = .ok := by
  refine ⟨by decide, by decide, rfl, rfl, rfl, ?_, rfl, ?_⟩
  · rw [busRead, busOffset_base (by decide)]
    decide
  · rw [busWrite, busOffset_base (by decide)]
    rfl

theorem test_met_CommandEndsInOneOfThreeWays :
    let s := latched sample 0x14010000
    s.busy = true ∧ s.err = false ∧ s.fatal = false ∧ s.code = .none := by decide

theorem test_met_RecoverableErrorsArePrecise :
    (latched sample 0).err = false ∧ (∃ t, exec (.fadd .p 3 1 4) (latched sample 0) = .next t ∧ t.err = true) ∧
    sample.busy = false ∧ sample.owned = false ∧ (∃ t, step sample = .next t) ∧
    ¬ sample.nextIs Event.resets ∧ ¬ (sample.owned = false ∧ sample.nextIs Event.writesCmd) ∧
    (scheduled [.busWrite (Config.base + 0x00C) 4 7] sample).nextIs Event.writesCmd ∧
    (scheduled [.hardReset] sample).nextIs Event.resets :=
  ⟨rfl, exists_of_ends (o := exec (.fadd .p 3 1 4) (latched sample 0)) (f := State.err) (by decide +kernel), rfl, rfl,
    ⟨_, rfl⟩, State.not_nextIs_nil _ rfl, fun h => State.not_nextIs_nil _ rfl h.2, ⟨_, _, rfl, 7, .inr rfl⟩,
    ⟨_, _, rfl, .inl rfl⟩⟩

theorem test_met_FatalOnlyOnZeroDivisor :
    (latched sample 0).fatal = false ∧ (∃ t, exec (.finv .p 3 0) (latched sample 0) = .next t ∧ t.fatal = true) ∧
    ∃ t, exec (.fdiv .n 3 6 0) (latched sample 0) = .next t ∧ t.fatal = true :=
  ⟨rfl, exists_of_ends (o := exec (.finv .p 3 0) (latched sample 0)) (f := State.fatal) (by decide +kernel),
    exists_of_ends (o := exec (.fdiv .n 3 6 0) (latched sample 0)) (f := State.fatal) (by decide +kernel)⟩

/-- A reset by `CTRL.SRST` next, and a write of 0 to it, which is no reset. -/
theorem test_met_FatalStateLeftOnlyByReset :
    let s := enterFatal .divZero (latched sample 0x14010000)
    s.fatal = true ∧ s.busy = false ∧ (scheduled [.write 0x004 4 1] s).nextIs Event.resets ∧
    (∃ t, step (scheduled [.write 0x004 4 1] s) = .next t) ∧
    ¬ (scheduled [.write 0x004 4 0xFFFFFFFE] s).nextIs Event.resets ∧
    ∃ t, step (scheduled [.write 0x004 4 0xFFFFFFFE] s) = .next t := by
  refine ⟨rfl, rfl, ⟨_, _, rfl, .inr ⟨1, by decide, .inl rfl⟩⟩, ⟨_, rfl⟩, ?_, ⟨_, rfl⟩⟩
  rw [State.nextIs_cons Event.resets rfl]
  rintro (h | ⟨v, hv, h | h⟩) <;> cases h
  revert hv
  decide

theorem test_met_BoundedCommandsComplete :
    (latched sample 0x24020900).busy = true ∧
    ∀ i, decode (latched sample 0x24020900).cmd = .ok i → searches i = false := by
  refine ⟨rfl, fun i h => ?_⟩
  have h' : decode (latched sample 0x24020900).cmd = .ok (.pmul 2 0 9) := by decide
  rw [h'] at h
  cases h
  rfl

/-- The edges of the byte clauses: 0x007, 0x00C, 0x013, 0x018, 0x1FF; 0x200, 0x3FF. -/
theorem test_met_CommandFrame :
    (∃ t, exec (.mov 2 1) sample = .next t) ∧ (1 : Reg) ∉ regDests (.mov 2 1) ∧ (0 : PReg) ∉ pointDests (.mov 2 1) ∧
    writesKey (.mov 2 1) = false ∧ imageReg 0x200 ∉ regDests (.mov 2 1) ∧ imageReg 0x3FF ∉ regDests (.mov 2 1) ∧
    imageReg 0x23F ∉ regDests (.mov 2 1) ∧ imageReg 0x240 ∈ regDests (.mov 2 1) := ⟨⟨_, rfl⟩, by decide⟩

/-- A success, a recoverable error and a fatal end. -/
theorem test_met_FlagsWrittenByCommand :
    (∃ t, exec (.pldg 1) (latched sample 0) = .next t ∧ t.busy = false) ∧ FlagName.z ∉ flagsWritten (.pldg 1) ∧
    infAlways (.pldg 1) = some false ∧ infAlways (.pinf 0) = some true ∧
    (latched sample 0).err = false ∧ (∃ t, exec (.fadd .p 3 1 4) (latched sample 0) = .next t ∧ t.err = true) ∧
    (latched sample 0).fatal = false ∧ ∃ t, exec (.finv .p 3 0) (latched sample 0) = .next t ∧ t.fatal = true :=
  ⟨⟨_, rfl, rfl⟩, by decide, rfl, rfl, rfl,
    exists_of_ends (o := exec (.fadd .p 3 1 4) (latched sample 0)) (f := State.err) (by decide +kernel), rfl,
    exists_of_ends (o := exec (.finv .p 3 0) (latched sample 0)) (f := State.fatal) (by decide +kernel)⟩

theorem test_met_ErrorCodesByCommand : (∃ t, exec (.keyload 0) sample = .next t) ∧ sample.Inv :=
  ⟨exec_next _ _, sample_inv⟩

theorem test_met_CommandIgnoresInterruptState :
    SameCore sample { sample with ien := 15, istat := 9 } ∧ ∃ t, exec (.fmul .p 3 1 1) sample = .next t :=
  ⟨⟨⟨rfl, rfl, rfl, rfl⟩, rfl, rfl, rfl, rfl, rfl, rfl, rfl⟩, exec_next _ _⟩

/-- Both sources at the top of the range; each source just above it. -/
theorem test_met_AddSubMulResults :
    sample.num 3 < modulus .p ∧ sample.num 3 = modulus .p - 1 ∧ modulus .p ≤ sample.num 4 ∧ modulus .n ≤ sample.num 3 := by
  decide

theorem test_met_PowResult :
    sample.num 3 < modulus .p ∧ modulus .p ≤ sample.num 4 ∧
    ((0xFFFFFFFFFFFFFFFFFFFFFFFFFFFFFFFFFFFFFFFFFFFFFFFFFFFFFFFDFFFFF85D : Nat) : Int) =
      -(sample.num 5 : Int) % ((modulus .p : Int) - 1) := by decide +kernel

theorem test_met_InverseResult :
    0 < sample.num 6 ∧ sample.num 6 < modulus .p ∧ 0 < sample.num 3 ∧ sample.num 3 < modulus .p ∧ sample.num 0 = 0 ∧
    modulus .p ≤ sample.num 4 ∧ 1 < modulus .p := by decide

theorem test_met_DivisionResult :
    sample.num 0 < modulus .n ∧ 0 < sample.num 6 ∧ sample.num 6 < modulus .n ∧ sample.num 0 = 0 ∧
    modulus .n ≤ sample.num 4 := by decide

theorem test_met_WideProductReducesToMul :
    (4 : Reg) ≠ 1 ∧ (4 : Reg) ≠ 3 ∧ (3 : Reg) ≠ 4 ∧ sample.num 1 < modulus .p ∧ sample.num 3 < modulus .p := by decide

theorem test_met_GroupLawCases :
    (BitVec.ofNat 256 gy ≠ BitVec.ofNat 256 negGy) ∧ pointG.valid Config.curve = true ∧
    point2G.valid Config.curve = true ∧ (BitVec.ofNat 256 gy ≠ (0 : Word256)) ∧
    (BitVec.ofNat 256 gx ≠ 0xC6047F9441ED7D6D3045406E95C07CD85C778E4B8CEF3CA7ABAC09B95C709EE5#256) := by decide +kernel

theorem test_met_ScalarMulIsDoubleAndAdd : (2 ^ 256 - 1 < 2 ^ 256) ∧ 7 < 2 ^ 3 ∧ 3 ≤ 256 := by decide

/-- `Infinity` stands for the zero of the curve's group, and is valid. -/
theorem test_met_PointAddRefinesCurveGroup :
    pointG.valid Config.curve = true ∧ Point.infinity.valid Config.curve = true ∧ Represents .infinity .zero :=
  ⟨by decide +kernel, rfl, rfl⟩

theorem generator_nonsingular :
    shortCurve.Nonsingular ((BitVec.ofNat 256 gx).toNat : ZMod Config.curve.p)
      ((BitVec.ofNat 256 gy).toNat : ZMod Config.curve.p) := by
  rw [WeierstrassCurve.Affine.nonsingular_iff, WeierstrassCurve.Affine.equation_iff]
  have hx : (BitVec.ofNat 256 gx).toNat = gx := by decide
  have hy : (BitVec.ofNat 256 gy).toNat = gy := by decide
  rw [hx, hy]
  simp only [shortCurve, zero_mul, mul_zero, add_zero, sub_zero]
  refine ⟨?_, .inr ?_⟩
  · have h : gy ^ 2 % Config.curve.p = (gx ^ 3 + Config.curve.a * gx + Config.curve.b) % Config.curve.p := by
      decide +kernel
    have := (ZMod.natCast_eq_natCast_iff' _ _ _).mpr h
    exact_mod_cast this
  · intro h
    have h2 : ((2 * gy : Nat) : ZMod Config.curve.p) = ((0 : Nat) : ZMod Config.curve.p) := by
      push_cast
      linear_combination h
    have h3 := (ZMod.natCast_eq_natCast_iff' _ _ _).mp h2
    exact absurd h3 (by decide +kernel)

theorem test_met_ScalarMulRefinesCurveGroup :
    7 < 2 ^ 256 ∧ pointG.valid Config.curve = true ∧ ∃ q, Represents pointG q :=
  ⟨by decide, by decide +kernel, ⟨_, generator_nonsingular, rfl⟩⟩

theorem test_met_ValidPointsFormAbelianGroup :
    pointG.valid Config.curve = true ∧ point2G.valid Config.curve = true ∧ point7G.valid Config.curve = true := by
  decide +kernel

theorem test_met_GeneratorHasOrderN :
    0 < n - 1 ∧ n - 1 < Config.curve.n ∧ pointG.valid Config.curve = true ∧ point2G.valid Config.curve = true := by
  decide +kernel

/-- On the curve, off it, and each coordinate at `p`. -/
theorem test_met_PsetResult :
    let s := loaded [(1, gx), (2, gy), (3, p - 1), (4, p)]
    s.num 1 < Config.curve.p ∧ s.num 2 < Config.curve.p ∧
    s.num 2 ^ 2 % Config.curve.p = (s.num 1 ^ 3 + 7) % Config.curve.p ∧ s.num 3 < Config.curve.p ∧
    ¬ s.num 3 ^ 2 % Config.curve.p = (s.num 1 ^ 3 + 7) % Config.curve.p ∧ Config.curve.p ≤ s.num 4 := by decide +kernel

theorem test_met_CoordinateReads :
    sample.point 1 = .affine (BitVec.ofNat 256 gx) (BitVec.ofNat 256 gy) ∧ sample.point 0 = .infinity := by decide

/-- `X = 5` has no root: the Euler power of `X³ + 7` is `−1` (R182's note on `NotOnCurve`). -/
theorem test_met_DecompressionFindsThePoint_noRoot :
    ∀ y : Nat, y < Config.curve.p →
      y ^ 2 % Config.curve.p ≠ ((loaded [(5, 5)]).num 5 ^ 3 + 7) % Config.curve.p := by
  intro y _ h
  have : Fact (Nat.Prime Config.curve.p) := ⟨p_prime⟩
  have h5 : (loaded [(5, 5)]).num 5 = 5 := by decide
  rw [h5] at h
  have hz : ((y ^ 2 : Nat) : ZMod Config.curve.p) = ((5 ^ 3 + 7 : Nat) : ZMod Config.curve.p) :=
    (ZMod.natCast_eq_natCast_iff' _ _ _).mpr h
  have hne : ((5 ^ 3 + 7 : Nat) : ZMod Config.curve.p) ≠ 0 := by
    intro h0
    exact absurd ((ZMod.natCast_eq_zero_iff _ _).mp h0) (by decide +kernel)
  have hy : (y : ZMod Config.curve.p) ≠ 0 := by
    intro h0
    rw [Nat.cast_pow, h0, zero_pow two_ne_zero] at hz
    exact hne hz.symm
  have hone : (((5 ^ 3 + 7) ^ ((Config.curve.p - 1) / 2) : Nat) : ZMod Config.curve.p) = ((1 : Nat) : ZMod _) := by
    rw [Nat.cast_pow, ← hz, Nat.cast_pow, ← pow_mul, show 2 * ((Config.curve.p - 1) / 2) = Config.curve.p - 1 by decide,
      ZMod.pow_card_sub_one_eq_one hy, Nat.cast_one]
  have hmod := (ZMod.natCast_eq_natCast_iff' _ _ _).mp hone
  have heu : fpow (5 ^ 3 + 7) ((Config.curve.p - 1) / 2) false Config.curve.p = Config.curve.p - 1 := by decide +kernel
  rw [fpow_eq false (by decide) (by decide) (by decide)] at heu
  have heff : effectiveExponent ((Config.curve.p - 1) / 2) false Config.curve.p = (Config.curve.p - 1) / 2 := rfl
  rw [heff, hmod] at heu
  exact absurd heu (by decide)

/-- Roots of both parities for `X = Gx`, and `X = p`. -/
theorem test_met_DecompressionFindsThePoint :
    let s := loaded [(8, gx), (4, p)]
    s.num 8 < Config.curve.p ∧ gy < Config.curve.p ∧ decide (gy % 2 = 1) = false ∧ decide (negGy % 2 = 1) = true ∧
    gy ^ 2 % Config.curve.p = (s.num 8 ^ 3 + 7) % Config.curve.p ∧
    negGy ^ 2 % Config.curve.p = (s.num 8 ^ 3 + 7) % Config.curve.p ∧ Config.curve.p ≤ s.num 4 := by decide +kernel

theorem test_met_SecRoundTrip :
    sample.point 1 = .affine (BitVec.ofNat 256 gx) (BitVec.ofNat 256 gy) ∧
    (sample.point 1).valid Config.curve = true ∧ (1 : Reg) ≠ 2 := by decide +kernel

theorem test_met_KeyloadResult :
    let s := loaded [(1, 1), (2, n - 1), (3, n)]
    0 < s.num 1 ∧ 0 < s.num 2 ∧ s.num 2 < Config.curve.n ∧ s.num 0 = 0 ∧ Config.curve.n ≤ s.num 3 := by decide

theorem test_met_KeypubKeyclrResults : sample.key.valid = true ∧ State.reset.key.valid = false := by decide

/-- The first candidate of R206's example is accepted, so `j = 0`. No input is known that needs a second one (R351). -/
theorem test_met_KgenGivesFirstNonce :
    let s := latched signer 0x33043000
    s.busy = true ∧ s.cmd = encode (.kgen 4 3) ∧ s.schedule = [] ∧ s.nonceTry = 0 ∧ s.key.valid = true ∧
    State.reset.key.valid = false ∧
    1 ≤ nonceCandidate Config.curve.n s.key.secret.toNat (s.num 3) 0 ∧
    nonceCandidate Config.curve.n s.key.secret.toNat (s.num 3) 0 < Config.curve.n := by
  have hc : nonceCandidate Config.curve.n (latched signer 0x33043000).key.secret.toNat
      ((latched signer 0x33043000).num 3) 0 = kSat := by
    rw [signer_num.1]
    exact test_nonce_candidate
  refine ⟨rfl, by decide, rfl, rfl, rfl, rfl, ?_, ?_⟩
  · rw [hc]; decide
  · rw [hc]; decide

/-- R226's first example: the candidate, the point `k·G`, and an `r` and raw `s` that are not 0. No input is known for the
clauses that pass a candidate over (R351). -/
theorem test_met_SignAtOneCandidate :
    (1 : Reg) ≠ 2 ∧ (latched signer 0x34013020).key.valid = true ∧ State.reset.key.valid = false ∧
    nonceCandidate Config.curve.n (latched signer 0x34013020).key.secret.toNat ((latched signer 0x34013020).num 3)
      (latched signer 0x34013020).nonceTry = kSat ∧
    1 ≤ kSat ∧ kSat < Config.curve.n ∧ rSat % Config.curve.n ≠ 0 ∧
    (zSat + rSat * 1) * (fpow kSat (Config.curve.n - 2) false Config.curve.n) % Config.curve.n ≠ 0 := by
  refine ⟨by decide, rfl, rfl, ?_, by decide, by decide, by decide, by decide +kernel⟩
  rw [signer_num.2]
  exact test_nonce_candidate

theorem test_met_SignUsesFirstUsableNonce :
    let s := latched signer 0x34013020
    (1 : Reg) ≠ 2 ∧ s.busy = true ∧ s.cmd = encode (.sign 1 2 3) ∧ s.schedule = [] ∧ s.nonceTry = 0 ∧
    s.key.valid = true ∧ signAt Config.curve s.key.secret.toNat (s.num 3) 0 = some (rSat, sSat) := by
  refine ⟨by decide, rfl, by decide, rfl, rfl, rfl, ?_⟩
  rw [signer_num.2]
  exact test_sign_at

theorem test_met_SignaturesAreLowS :
    (1 : Reg) ≠ 2 ∧ (latched signer 0x34013020).key.valid = true ∧ (latched signer 0x34013020).busy = true ∧
    ∃ t, exec (.sign 1 2 3) (latched signer 0x34013020) = .next t ∧ t.busy = false :=
  ⟨by decide, rfl, rfl, ⟨_, test_sign_pair, rfl⟩⟩

theorem test_met_SignedMessageVerifies :
    (1 : Reg) ≠ 2 ∧ (3 : Reg) ≠ 1 ∧ (3 : Reg) ≠ 2 ∧ (latched signer 0x34013020).key.ok ∧
    (latched signer 0x34013020).key.valid = true ∧ (latched signer 0x34013020).busy = true ∧
    ∃ t, exec (.sign 1 2 3) (latched signer 0x34013020) = .next t ∧ t.busy = false :=
  ⟨by decide, by decide, by decide, keyOne_ok, rfl, rfl, ⟨_, test_sign_pair, rfl⟩⟩

theorem test_met_HashByteLengths : (([] : Bytes).length + 1 + 55 + 8) % 64 = 0 := by decide

/-- The edges of every range of the two maps, and an owned and a free block. -/
theorem test_met_WindowReadMap :
    0x3FE % 4 ≠ 0 ∧ 0x018 % 4 = 0 ∧ 0x1FC % 4 = 0 ∧ 0x018 ≤ 0x1FC ∧ 7 < 8 ∧ (latched sample 0).busy = true ∧
    (enterFatal .divZero sample).fatal = true ∧ sample.busy = false ∧ sample.fatal = false := by decide

theorem test_met_WindowWriteMap :
    (1 : Word32).getLsbD 0 = true ∧ (0xFFFFFFFE : Word32).getLsbD 0 = false ∧ (latched sample 0).busy = true ∧
    (enterFatal .divZero sample).fatal = true ∧ sample.busy = false ∧ sample.fatal = false := by decide

theorem test_met_OwnedBlockRefusesHost :
    (latched sample 0).owned = true ∧ (enterFatal .divZero sample).owned = true ∧ Event.read 0x200 4 ≠ .engine ∧
    (∃ t, runEvent (.read 0x200 4) (latched sample 0) = .next t) ∧ ¬ (Event.read 0x200 4).resets ∧
    Event.hardReset.resets ∧ (Event.busWrite (Config.base + 0x004) 4 1).resets := by
  refine ⟨rfl, rfl, by decide, ⟨_, rfl⟩, ?_, .inl rfl, .inr ⟨1, by decide, .inr rfl⟩⟩
  rintro (h | ⟨v, _, h | h⟩) <;> cases h

theorem test_met_RegisterScriptsMoveValues :
    sample.owned = false ∧
    { sample with schedule := scriptSetr 15 5 ++ [Event.engine] }.schedule = scriptSetr 15 5 ++ [Event.engine] ∧
    { sample with schedule := scriptGetr 15 ++ [Event.engine] }.schedule = scriptGetr 15 ++ [Event.engine] := ⟨rfl, rfl, rfl⟩

theorem test_met_BusAddressesReachWindow :
    0x3FF < 0x400 ∧ Config.base + 0x3FF = Config.base + 0x3FF ∧ Config.base + 0x400 ≤ Config.base + 0x400 :=
  ⟨by decide, rfl, Nat.le_refl _⟩

theorem test_met_PendingBitsClearedOnlyByHost :
    (∃ t, step (scheduled [.write 0x014 4 8] { sample with istat := 15 }) = .next t ∧ t.istat.getLsbD 3 = false) ∧
    ∃ t, exec .nop (latched sample 0) = .next t ∧ t.busy = false :=
  ⟨⟨_, rfl, by decide⟩, ⟨_, rfl, rfl⟩⟩

theorem test_met_PendingBitsSetByTheirEvents :
    (∃ t, step (latched sample 0) = .next t ∧ t.istat.getLsbD 0 = true) ∧
    (∃ t, step (latched sample 0x04000000) = .next t ∧ t.istat.getLsbD 1 = true) ∧
    (∃ t, step (latched sample 0x14010000) = .next t ∧ t.istat.getLsbD 2 = true) ∧
    (∃ t, step (scheduled [.read 0x3FC 4] (latched sample 0)) = .next t ∧ t.istat.getLsbD 3 = true) ∧
    (latched sample 0).owned = true ∧ (scheduled [.read 0x3FC 4] (latched sample 0)).nextIs Event.refusable ∧
    (scheduled [.write 0x200 4 0] (latched sample 0)).nextIs Event.refusable ∧
    (scheduled [.busWrite (Config.base + 0x00C) 4 0] (latched sample 0)).nextIs Event.refusable ∧
    (8 : Word32).getLsbD 3 = true ∧ (scheduled [.write 0x014 4 8] sample).nextIs (Event.writesAt 0x014 8) ∧
    (scheduled [.hardReset] sample).nextIs Event.resets :=
  ⟨exists_of_ends (f := fun t => t.istat.getLsbD 0) (by decide +kernel),
    exists_of_ends (f := fun t => t.istat.getLsbD 1) (by decide +kernel),
    exists_of_ends (f := fun t => t.istat.getLsbD 2) (by decide +kernel),
    exists_of_ends (f := fun t => t.istat.getLsbD 3) (by decide +kernel), rfl,
    ⟨_, _, rfl, .inr ⟨0x3FC, by decide, by decide, by decide, .inl (.inl rfl)⟩⟩,
    ⟨_, _, rfl, .inr ⟨0x200, by decide, by decide, by decide, .inr ⟨0, .inl rfl⟩⟩⟩,
    ⟨_, _, rfl, .inl ⟨0, .inr rfl⟩⟩, by decide, ⟨_, _, rfl, .inl rfl⟩, ⟨_, _, rfl, .inl rfl⟩⟩

theorem test_met_ResetsFromEveryState :
    { latched sample 0 with schedule := [.hardReset, .engine] }.schedule = .hardReset :: [.engine] ∧
    { latched sample 0 with schedule := [.write 0x004 4 1] }.schedule = .write 0x004 4 1 :: [] ∧
    (1 : Word32).getLsbD 0 = true ∧ (2 : Word32).getLsbD 0 = false := ⟨rfl, rfl, by decide, by decide⟩

theorem test_met_StepKeepsInv : sample.Inv ∧ ∃ t, step sample = .next t := ⟨sample_inv, ⟨_, rfl⟩⟩

theorem test_met_SecretHasNoOtherReader :
    (∀ i, decode (latched sample 0x31010000).cmd = .ok i → searches i = false) ∧
    ∃ t, step (latched sample 0x31010000) = .next t := by
  refine ⟨fun i h => ?_, ?_⟩
  · have h' : decode (latched sample 0x31010000).cmd = .ok (.keypub 1) := by decide
    rw [h'] at h
    cases h
    rfl
  · obtain ⟨t, h, _⟩ := exists_of_ends (o := step (latched sample 0x31010000)) (f := fun _ => true) (by decide +kernel)
    exact ⟨t, h⟩

end Sys2Proof.Tests
end

section
/-! SUPPORT. The state after a reset (R41), and what a command does to the result flags (R30), said once: one lemma over
all commands, `exec_flagsEnd`. -/

namespace Sys2Proof.Machine

/-! ## The state after a reset -/

@[simp] theorem reset_num (r : Reg) : State.reset.num r = 0 := by
  simp [State.num, State.reg, State.reset, Vector.get_eq_getElem]

@[simp] theorem reset_point (q : PReg) : State.reset.point q = .infinity := by
  simp [State.point, State.reset, Vector.get_eq_getElem]

/-- The engine's turn passes on an idle block (R302). -/
theorem engineTurn_of_idle {s : State} (h : s.busy = false) : engineTurn s = .next s := by
  simp [engineTurn, h]

/-! ## One flag written (R29) -/

/-- The flags with the named one set to `b`; the model's `setZ`, `setInf`, `setOdd`, `setEq` and `setV` do this to the
flags of a state, each by definition. -/
def Flags.set (F : Flags) : FlagName → Bool → Flags
  | .z, b => { F with z := b }
  | .inf, b => { F with inf := b }
  | .odd, b => { F with odd := b }
  | .eq, b => { F with eq := b }
  | .v, b => { F with v := b }

theorem Flags.get_set_of_ne (F : Flags) (b : Bool) {f n : FlagName} (h : f ≠ n) : (F.set n b).get f = F.get f := by
  cases n <;> cases f <;> simp [Flags.get, Flags.set] at h ⊢

/-! ## The flags at the end of a command (R30) -/

/-- How the flags of `t` stand to those of `s` when `i` went from `s` to `t`. -/
inductive FlagsEnd (i : Instr) (s t : State) : Prop where
  /-- a success: at most the flags of `i` are written, and `INF` has the value that `i` always gives it -/
  | written (others : ∀ f, f ∉ flagsWritten i → t.flags.get f = s.flags.get f)
      (inf : ∀ b, infAlways i = some b → t.flags.inf = b)
  /-- an error, the fatal state, or a command still running -/
  | kept (same : t.flags = s.flags) (ended : t.err = true ∨ t.fatal = true ∨ t.busy = s.busy)

section
variable {i : Instr} {s u : State}

theorem flagsEnd_raiseError (c : Code) : Answers (raiseError c s) (FlagsEnd i s) := ⟨_, rfl, .kept rfl (.inl rfl)⟩

theorem flagsEnd_raiseFatal (c : Code) : Answers (raiseFatal c s) (FlagsEnd i s) :=
  ⟨_, rfl, .kept rfl (.inr (.inl rfl))⟩

theorem flagsEnd_nextCandidate : Answers (nextCandidate s) (FlagsEnd i s) := ⟨_, rfl, .kept rfl (.inr (.inr rfl))⟩

/-- The end of a command that writes no flag. -/
theorem flagsEnd_complete_same (hi : infAlways i = none) (h : u.flags = s.flags) :
    Answers (complete u) (FlagsEnd i s) :=
  ⟨_, rfl, .written (fun f _ => congrArg (Flags.get · f) h) (by simp [hi])⟩

/-- The end of a command that writes one flag, with a value that may differ from run to run. -/
theorem flagsEnd_complete_set {n : FlagName} {b : Bool} (hw : flagsWritten i = [n]) (hi : infAlways i = none)
    (h : u.flags = s.flags.set n b) : Answers (complete u) (FlagsEnd i s) := by
  refine ⟨_, rfl, .written (fun f hf => ?_) (by simp [hi])⟩
  rw [completeOk_flags, h]
  exact Flags.get_set_of_ne _ _ (by simpa [hw] using hf)

/-- The end of a command that always writes the same `INF`. -/
theorem flagsEnd_complete_inf {b : Bool} (hw : flagsWritten i = [.inf]) (hi : infAlways i = some b)
    (h : u.flags = s.flags.set .inf b) : Answers (complete u) (FlagsEnd i s) := by
  refine ⟨_, rfl, .written (fun f hf => ?_) fun c hc => ?_⟩ <;> rw [completeOk_flags, h]
  · exact Flags.get_set_of_ne _ _ (by simpa [hw] using hf)
  · exact Option.some.inj (hi.symm.trans hc)

/-- The end of a command that writes a point and its `INF`. -/
theorem flagsEnd_completePoint (hw : flagsWritten i = [.inf]) (hi : infAlways i = none) (pd : PReg) (v : Point) :
    Answers (completePoint pd v s) (FlagsEnd i s) := flagsEnd_complete_set hw hi rfl

/-- The end of a command that writes a number and its `Z`. -/
theorem flagsEnd_completeResult (hw : flagsWritten i = [.z]) (hi : infAlways i = none) (rd : Reg) (v : Nat) :
    Answers (completeResult rd v s) (FlagsEnd i s) := flagsEnd_complete_set hw hi rfl

theorem answers_ite {c : Prop} [Decidable c] {a b : Result} {Q : State → Prop} (ha : Answers a Q) (hb : Answers b Q) :
    Answers (if c then a else b) Q := by
  split
  · exact ha
  · exact hb

theorem flagsEnd_binaryField (hw : flagsWritten i = [.z]) (hi : infAlways i = none) (f : Nat → Nat → Nat → Nat)
    (m : Modulus) (rd ra rb : Reg) : Answers (binaryField f m rd ra rb s) (FlagsEnd i s) :=
  answers_ite (flagsEnd_completeResult hw hi _ _) (flagsEnd_raiseError _)

theorem flagsEnd_readCoordinate (hw : flagsWritten i = [.odd]) (hi : infAlways i = none)
    (coord : Word256 → Word256 → Word256) (rd : Reg) (pa : PReg) :
    Answers (readCoordinate coord rd pa s) (FlagsEnd i s) := by
  unfold readCoordinate
  split
  · exact flagsEnd_raiseError _
  · exact flagsEnd_complete_set hw hi rfl

end

/-- What any command does to the flags. -/
theorem exec_flagsEnd (i : Instr) (s : State) : Answers (exec i s) (FlagsEnd i s) := by
  cases i with
  | nop => exact flagsEnd_complete_same rfl rfl
  | mov rd ra => exact flagsEnd_complete_same rfl rfl
  | ldi rd imm => exact flagsEnd_complete_same rfl rfl
  | zeroize =>
    refine ⟨_, rfl, .written (fun f hf => ?_) (fun b hb => Option.some.inj hb)⟩
    cases f <;> simp [flagsWritten] at hf
  | fadd m rd ra rb => exact flagsEnd_binaryField rfl rfl ..
  | fsub m rd ra rb => exact flagsEnd_binaryField rfl rfl ..
  | fmul m rd ra rb => exact flagsEnd_binaryField rfl rfl ..
  | fpow m neg rd ra rb => exact answers_ite (flagsEnd_completeResult rfl rfl _ _) (flagsEnd_raiseError _)
  | finv m rd ra =>
    exact answers_ite
      (answers_ite (flagsEnd_raiseFatal _) (flagsEnd_complete_set (n := .z) (b := false) rfl rfl rfl))
      (flagsEnd_raiseError _)
  | fdiv m rd ra rb =>
    exact answers_ite (answers_ite (flagsEnd_raiseFatal _) (flagsEnd_completeResult rfl rfl _ _))
      (flagsEnd_raiseError _)
  | mred m rd rb => exact flagsEnd_completeResult rfl rfl _ _
  | mredW m rd ra rb => exact flagsEnd_completeResult rfl rfl _ _
  | mull rd ra rb => exact flagsEnd_completeResult rfl rfl _ _
  | mulh rd ra rb => exact flagsEnd_completeResult rfl rfl _ _
  | pset pd ra rb =>
    exact answers_ite (answers_ite (flagsEnd_complete_inf rfl rfl rfl) (flagsEnd_raiseError _))
      (flagsEnd_raiseError _)
  | pinf pd => exact flagsEnd_complete_inf rfl rfl rfl
  | pmov pd pa => exact flagsEnd_completePoint rfl rfl _ _
  | padd pd pa pb => exact flagsEnd_completePoint rfl rfl _ _
  | pmul pd pa rb => exact flagsEnd_completePoint rfl rfl _ _
  | pgetx rd pa => exact flagsEnd_readCoordinate rfl rfl ..
  | pgety rd pa => exact flagsEnd_readCoordinate rfl rfl ..
  | peq pa pb => exact flagsEnd_complete_set (n := .eq) rfl rfl rfl
  | pldg pd => exact flagsEnd_complete_inf rfl rfl rfl
  | pdec odd pd ra =>
    refine answers_ite ?_ (flagsEnd_raiseError _)
    split
    · exact flagsEnd_raiseError _
    · exact flagsEnd_complete_inf rfl rfl rfl
  | keyload ra => exact answers_ite (flagsEnd_raiseError _) (flagsEnd_complete_same rfl rfl)
  | keypub pd => exact answers_ite (flagsEnd_complete_inf rfl rfl rfl) (flagsEnd_raiseError _)
  | keyclr => exact flagsEnd_complete_same rfl rfl
  | kgen rd ra =>
    exact answers_ite (answers_ite (flagsEnd_complete_same rfl rfl) flagsEnd_nextCandidate) (flagsEnd_raiseError _)
  | sign rd re ra =>
    refine answers_ite ?_ (flagsEnd_raiseError _)
    split
    · exact flagsEnd_nextCandidate
    · exact flagsEnd_complete_same rfl rfl
  | verify pa ra rb rc => exact flagsEnd_complete_set (n := .v) rfl rfl rfl

section
variable {i : Instr} {s t : State} (h : exec i s = .next t)
include h

theorem flagsEnd_of_exec : FlagsEnd i s t := by
  obtain ⟨t', h', he⟩ := exec_flagsEnd i s
  cases h.symm.trans h'
  exact he

/-- A command that does not complete successfully keeps all flags (R29, R30). -/
theorem exec_flags_eq_or_succeeded : t.flags = s.flags ∨ Succeeded s t := by
  obtain ⟨u, h', shell⟩ | ⟨c, h', -, -⟩ | ⟨h', -⟩ | ⟨h', -⟩ := exec_cases i s <;> cases h.symm.trans h'
  · exact .inr (succeeded_completeOk shell)
  all_goals exact .inl rfl

theorem exec_flags_get_of_not_written {f : FlagName} (hf : f ∉ flagsWritten i) : t.flags.get f = s.flags.get f := by
  cases flagsEnd_of_exec h with
  | written others _ => exact others f hf
  | kept same _ => rw [same]

theorem exec_flags_eq_of_err (hs : s.err = false) (ht : t.err = true) : t.flags = s.flags :=
  (exec_flags_eq_or_succeeded h).resolve_right fun ok => by simp [ok.err, hs] at ht

theorem exec_flags_eq_of_fatal (hs : s.fatal = false) (ht : t.fatal = true) : t.flags = s.flags :=
  (exec_flags_eq_or_succeeded h).resolve_right fun ok => by simp [ok.fatal, hs] at ht

theorem exec_flags_eq_of_running (ht : t.busy = true) : t.flags = s.flags :=
  (exec_flags_eq_or_succeeded h).resolve_right fun ok => by simp [ok.busy] at ht

theorem exec_inf_of_infAlways {b : Bool} (hi : infAlways i = some b) (hs : s.busy = true) (hbusy : t.busy = false)
    (herr : t.err = false) (hfatal : t.fatal = false) : t.flags.inf = b := by
  cases flagsEnd_of_exec h with
  | written _ inf => exact inf b hi
  | kept _ ended => simp [herr, hfatal, hbusy, hs] at ended

end

theorem exec_zeroize_flags {s t : State} (h : exec .zeroize s = .next t) : t.flags = .clear := by
  cases h
  rfl

/-! ## The obligations -/

/-- Settles O15, from `exec_flagsEnd` (which flags a success writes) and `exec_cases` (every other end writes none). -/
theorem flagsWrittenByCommand : Obligations.FlagsWrittenByCommand := by
  intro i s t h
  refine ⟨fun f hf => exec_flags_get_of_not_written h hf, exec_flags_eq_of_err h, exec_flags_eq_of_fatal h,
    fun _ => exec_flags_eq_of_running h, fun b hi hs _ _ => exec_inf_of_infAlways h hi hs, ?_⟩
  rintro rfl
  exact exec_zeroize_flags h

/-- Settles O56: the arrays by reading a replicated vector, the engine's turn by `engineTurn_of_idle`. -/
theorem resetValues : Obligations.ResetValues :=
  ⟨reset_num, reset_point, rfl, rfl, rfl, rfl, rfl, rfl, rfl, rfl, rfl, rfl, rfl, rfl, rfl, engineTurn_of_idle rfl⟩

end Sys2Proof.Machine
end

section
/-! SUPPORT. The window location by location: what a location shows (`windowWord`), what a write of it does
(`writeWindow`), and what a read or a write of the port answers (R62, R63, R66, R70). At the fixed offsets
`windowWord` and `writeWindow` compute, so only the locations whose effect depends on the value or on ownership, and the
ranges of offsets, have a lemma. -/

namespace Sys2Proof.Machine

/-! ## Ownership (R70) -/

theorem owned_iff (s : State) : s.owned = true ↔ s.busy = true ∨ s.fatal = true := by simp [State.owned]

theorem not_owned {s : State} (hb : s.busy = false) (hf : s.fatal = false) : s.owned = false := by
  simp [State.owned, hb, hf]

/-! ## Which accesses the port carries (R66) -/

theorem validAccess_four {off : Nat} (hal : off % 4 = 0) (hoff : off < 0x400) : validAccess off 4 = true :=
  (validAccess_iff off 4).mpr ⟨rfl, hal, hoff⟩

theorem validAccess_eq_false {off size : Nat} (h : size ≠ 4 ∨ off % 4 ≠ 0 ∨ 0x400 ≤ off) :
    validAccess off size = false := by
  rw [← Bool.not_eq_true, validAccess_iff]
  omega

theorem imageOffset_ge (i : Reg) (j : Nat) : 0x200 ≤ imageOffset i j := by
  unfold imageOffset
  omega

/-! ## What a location shows (R61, R62) -/

/-- The reserved offsets read 0. -/
theorem windowWord_reserved (s : State) {off : Nat} (hlo : 0x018 ≤ off) (hhi : off < 0x200) : windowWord s off = 0 := by
  unfold windowWord
  iterate 6 rw [if_neg (by omega)]
  rw [if_pos hhi]

theorem windowWord_image (s : State) (i : Reg) {j : Nat} (hj : j < 8) :
    windowWord s (imageOffset i j) = wordOf (s.reg i) j := by
  have hoff := imageOffset_ge i j
  unfold windowWord
  iterate 7 rw [if_neg (by omega)]
  rw [imageReg_offset i hj, imageWord_offset i hj]

/-! ## What a write of a location does (R63) -/

theorem writeWindow_reserved (v : Word32) (s : State) {off : Nat} (hlo : 0x018 ≤ off) (hhi : off < 0x200) :
    writeWindow off v s = s := by
  unfold writeWindow
  iterate 4 rw [if_neg (by omega)]
  rw [if_pos hhi]

theorem writeWindow_srst {v : Word32} (s : State) (h : v.getLsbD 0 = true) : writeWindow 0x004 v s = softReset s :=
  if_pos h

theorem writeWindow_ctrl_zero {v : Word32} (s : State) (h : v.getLsbD 0 = false) : writeWindow 0x004 v s = s :=
  if_neg (ne_true_of_eq_false h)

theorem writeWindow_cmd (v : Word32) (s : State) :
    writeWindow 0x00C v s = if s.owned then s.pend ovrI else accept v s := rfl

theorem writeWindow_file (v : Word32) (s : State) {off : Nat} (h : 0x200 ≤ off) :
    writeWindow off v s = if s.owned then s.pend ovrI else writeImage off v s := by
  unfold writeWindow
  iterate 5 rw [if_neg (by omega)]

theorem writeImage_offset (v : Word32) (s : State) (i : Reg) {j : Nat} (hj : j < 8) :
    writeImage (imageOffset i j) v s = s.setReg i (setWord (s.reg i) j v) := by
  rw [writeImage, imageReg_offset i hj, imageWord_offset i hj]

/-! ## What a read answers (R62) -/

theorem memRead_invalid {off size : Nat} (s : State) (h : validAccess off size = false) :
    memRead off size s = (.busError, s) := by
  simp [memRead, h]

/-- Below the register file a read answers in every state. -/
theorem memRead_low (s : State) {off : Nat} (hal : off % 4 = 0) (hoff : off < 0x200) :
    memRead off 4 s = (.data (windowWord s off), s) := by
  rw [memRead, if_pos (validAccess_four hal (by omega)), if_neg fun h => Nat.not_le.mpr hoff h.1]

theorem memRead_reserved (s : State) {off : Nat} (hal : off % 4 = 0) (hlo : 0x018 ≤ off) (hhi : off < 0x200) :
    memRead off 4 s = (.data 0, s) := by
  rw [memRead_low s hal hhi, windowWord_reserved s hlo hhi]

/-- A register-file read of an engine-owned block is refused (R70). -/
theorem memRead_file_of_owned {s : State} (ho : s.owned = true) {off : Nat} (hal : off % 4 = 0) (hlo : 0x200 ≤ off)
    (hhi : off < 0x400) : memRead off 4 s = (.data 0, s.pend ovrI) := by
  rw [memRead, if_pos (validAccess_four hal hhi), if_pos ⟨hlo, ho⟩]

theorem memRead_image_of_free {s : State} (ho : s.owned = false) (i : Reg) {j : Nat} (hj : j < 8) :
    memRead (imageOffset i j) 4 s = (.data (wordOf (s.reg i) j), s) := by
  rw [memRead, if_pos (validAccess_imageOffset i hj), if_neg (by simp [ho]), windowWord_image s i hj]

/-! ## What a write answers (R63) -/

theorem memWrite_four (v : Word32) (s : State) {off : Nat} (hal : off % 4 = 0) (hoff : off < 0x400) :
    memWrite off 4 v s = (.ok, writeWindow off v s) :=
  memWrite_valid v s (validAccess_four hal hoff)

theorem memWrite_reserved (v : Word32) (s : State) {off : Nat} (hal : off % 4 = 0) (hlo : 0x018 ≤ off)
    (hhi : off < 0x200) : memWrite off 4 v s = (.ok, s) := by
  rw [memWrite_four v s hal (by omega), writeWindow_reserved v s hlo hhi]

theorem memWrite_srst {v : Word32} (s : State) (h : v.getLsbD 0 = true) : memWrite 0x004 4 v s = (.ok, softReset s) := by
  rw [memWrite_four v s (by decide) (by decide), writeWindow_srst s h]

theorem memWrite_ctrl_zero {v : Word32} (s : State) (h : v.getLsbD 0 = false) : memWrite 0x004 4 v s = (.ok, s) := by
  rw [memWrite_four v s (by decide) (by decide), writeWindow_ctrl_zero s h]

/-- A write of `CMD` in an engine-owned block is refused (R70). -/
theorem memWrite_cmd_of_owned (v : Word32) {s : State} (ho : s.owned = true) :
    memWrite 0x00C 4 v s = (.ok, s.pend ovrI) := by
  rw [memWrite_four v s (by decide) (by decide), writeWindow_cmd, if_pos ho]

/-- A write of `CMD` in a block that is not engine-owned is an accept (R69). -/
theorem memWrite_cmd_of_free (v : Word32) {s : State} (ho : s.owned = false) :
    memWrite 0x00C 4 v s = (.ok, accept v s) := by
  rw [memWrite_four v s (by decide) (by decide), writeWindow_cmd, if_neg (by simp [ho])]

/-- A register-file write of an engine-owned block is refused (R70). -/
theorem memWrite_file_of_owned (v : Word32) {s : State} (ho : s.owned = true) {off : Nat} (hal : off % 4 = 0)
    (hlo : 0x200 ≤ off) (hhi : off < 0x400) : memWrite off 4 v s = (.ok, s.pend ovrI) := by
  rw [memWrite_four v s hal hhi, writeWindow_file v s hlo, if_pos ho]

theorem memWrite_image_of_free (v : Word32) {s : State} (ho : s.owned = false) (i : Reg) {j : Nat} (hj : j < 8) :
    memWrite (imageOffset i j) 4 v s = (.ok, s.setReg i (setWord (s.reg i) j v)) := by
  rw [memWrite_valid v s (validAccess_imageOffset i hj), writeWindow_file v s (imageOffset_ge i j),
    if_neg (by simp [ho]), writeImage_offset v s i hj]

/-! ## The image of an engine-owned block -/

section
variable {s : State} (ho : s.owned = true) (i : Reg) {j : Nat} (hj : j < 8)
include ho hj

theorem memRead_image_of_owned : memRead (imageOffset i j) 4 s = (.data 0, s.pend ovrI) :=
  have ⟨_, hal, hlt⟩ := (validAccess_iff _ _).mp (validAccess_imageOffset i hj)
  memRead_file_of_owned ho hal (imageOffset_ge i j) hlt

theorem memWrite_image_of_owned (v : Word32) : memWrite (imageOffset i j) 4 v s = (.ok, s.pend ovrI) :=
  have ⟨_, hal, hlt⟩ := (validAccess_iff _ _).mp (validAccess_imageOffset i hj)
  memWrite_file_of_owned v ho hal (imageOffset_ge i j) hlt

end

/-! ## The host and an engine-owned block (R70) -/

/-- Writes of `IEN` and `ISTAT`, and a refusal, change the interrupt bits and the port's answer alone. -/
theorem sameCore_interrupts (s : State) (ien istat : BitVec 4) (reply : Option Reply) :
    SameCore s { s with ien := ien, istat := istat, reply := reply } where
  data := ⟨rfl, rfl, rfl, rfl⟩
  cmd := rfl
  busy := rfl
  done := rfl
  err := rfl
  fatal := rfl
  code := rfl
  nonceTry := rfl

/-- What every access does to an engine-owned block. -/
theorem ownedAccess_of_owned {s : State} (ho : s.owned = true) : OwnedAccess s where
  readFile _ hal hlo hhi := memRead_file_of_owned ho hal hlo hhi
  writeFile _ v hal hlo hhi := memWrite_file_of_owned v ho hal hlo hhi
  writeCmd v := memWrite_cmd_of_owned v ho
  readId := memRead_low s rfl (by decide)
  readCtrl := memRead_low s rfl (by decide)
  readStatus := memRead_low s rfl (by decide)
  readCmd := memRead_low s rfl (by decide)
  readIen := memRead_low s rfl (by decide)
  readIstat := memRead_low s rfl (by decide)
  readReserved _ hal hlo hhi := memRead_reserved s hal hlo hhi
  writeId v := memWrite_four v s rfl (by decide)
  writeReset _ hv := memWrite_srst s hv
  writeNoReset _ hv := memWrite_ctrl_zero s hv
  writeStatus v := memWrite_four v s rfl (by decide)
  writeIen v := memWrite_four v s rfl (by decide)
  writeIstat v := memWrite_four v s rfl (by decide)
  writeReserved _ v hal hlo hhi := memWrite_reserved v s hal hlo hhi
  malformed _ _ v h :=
    have hv := validAccess_eq_false h
    ⟨memRead_invalid s hv, memWrite_invalid v s hv⟩

section
variable {e : Event} {s t : State} (h : runEvent e s = .next t)
include h

theorem isReset_of_resets (hr : e.resets) : IsReset t := by
  obtain ⟨r, h'⟩ := runEvent_of_resets s hr
  cases h.symm.trans h'
  rfl

/-- No event of the host but a reset changes the data, the command or its progress of an engine-owned block: the events
that do, an accept and a register write, need a block that is not engine-owned. -/
theorem sameCore_of_owned (ho : s.owned = true) (he : e ≠ .engine) (hr : ¬ e.resets) : SameCore s t := by
  cases runEvent_cases e s he with
  | quiet r h' | refused r h' | enable v h' | clear v h' =>
    cases h.symm.trans h'
    exact sameCore_interrupts s _ _ _
  | reset r h' event => exact absurd event hr
  | accepted v h' event free | image off v h' event free => simp [ho] at free

end

/-! ## The obligations -/

/-- Settles O48, each location by its read lemma. -/
theorem windowReadMap : Obligations.WindowReadMap := by
  intro s
  refine ⟨fun off size h => memRead_invalid s (validAccess_eq_false h), memRead_low s rfl (by decide),
    memRead_low s rfl (by decide), memRead_low s rfl (by decide), memRead_low s rfl (by decide),
    memRead_low s rfl (by decide), memRead_low s rfl (by decide),
    fun off hal hlo hhi => memRead_reserved s hal hlo (by omega), fun i j hj => ⟨fun ho => ?_, fun hb hf => ?_⟩⟩
  · exact memRead_image_of_owned ((owned_iff s).mpr ho) i hj
  · exact memRead_image_of_free (not_owned hb hf) i hj

/-- Settles O49, each location by its write lemma; the word written and the others by the laws of `setWord`. -/
theorem windowWriteMap : Obligations.WindowWriteMap := by
  intro s v
  have hlow : v.extractLsb' 0 4 = v.setWidth 4 := (BitVec.setWidth_eq_extractLsb' (by decide)).symm
  rw [hlow]
  refine ⟨fun off size h => memWrite_invalid v s (validAccess_eq_false h), memWrite_four v s rfl (by decide),
    memWrite_four v s rfl (by decide), fun hv => ⟨_, memWrite_srst s hv, rfl⟩, memWrite_ctrl_zero s,
    fun ho => memWrite_cmd_of_owned v ((owned_iff s).mpr ho), fun hb hf => memWrite_cmd_of_free v (not_owned hb hf),
    memWrite_four v s rfl (by decide), memWrite_four v s rfl (by decide),
    fun off hal hlo hhi => memWrite_reserved v s hal hlo (by omega), fun i j hj => ⟨fun ho => ?_, fun hb hf => ?_⟩⟩
  · exact memWrite_image_of_owned ((owned_iff s).mpr ho) i hj v
  · refine ⟨_, memWrite_image_of_free v (not_owned hb hf) i hj, rfl, ?_, fun l hl hlj => ?_,
      fun r hr => setReg_reg_ne s _ hr⟩ <;> rw [setReg_reg_self]
    · exact wordOf_setWord_self _ v hj
    · exact wordOf_setWord_ne _ v hl hlj

/-- Settles O50, from `ownedAccess_of_owned` (the accesses) and the inversion lemma of the events. -/
theorem ownedBlockRefusesHost : Obligations.OwnedBlockRefusesHost := fun s =>
  ⟨owned_iff s, fun ho => ⟨ownedAccess_of_owned ho, fun _ _ he h =>
    ⟨isReset_of_resets h, sameCore_of_owned h ho he⟩⟩⟩

end Sys2Proof.Machine
end

section
/-! SUPPORT. The decoder's masks read field by field: a word has a row's fixed bits exactly when its operand fields are
those R97 allows under the row's opcode, so the words no row accepts are those of R97's list. -/

namespace Sys2Proof.Machine

/-! ## A word is its fields (R91) -/

/-- A bit of a word is read in any field that contains it. -/
theorem getLsbD_eq_of_extractLsb'_eq {x y : Word32} {lo n k : Nat} (h : x.extractLsb' lo n = y.extractLsb' lo n)
    (hlo : lo ≤ k) (hhi : k < lo + n) : x.getLsbD k = y.getLsbD k := by
  have hbit := congrArg (BitVec.getLsbD · (k - lo)) h
  simpa [show k - lo < n by omega, Nat.add_sub_cancel' hlo] using hbit

/-- Two words with the same fields of format R are equal. -/
theorem word_eq_of_fields {x y : Word32} (hop : x.extractLsb' 24 8 = y.extractLsb' 24 8)
    (hupper : x.extractLsb' 22 2 = y.extractLsb' 22 2) (hf : x.getLsbD 21 = y.getLsbD 21)
    (hm : x.getLsbD 20 = y.getLsbD 20) (ha : x.extractLsb' 16 4 = y.extractLsb' 16 4)
    (hb : x.extractLsb' 12 4 = y.extractLsb' 12 4) (hc : x.extractLsb' 8 4 = y.extractLsb' 8 4)
    (hd : x.extractLsb' 4 4 = y.extractLsb' 4 4) (hlow : x.extractLsb' 0 4 = y.extractLsb' 0 4) : x = y := by
  apply BitVec.eq_of_getLsbD_eq
  intro k hk
  by_cases h4 : k < 4
  · exact getLsbD_eq_of_extractLsb'_eq hlow (by omega) (by omega)
  by_cases h8 : k < 8
  · exact getLsbD_eq_of_extractLsb'_eq hd (by omega) (by omega)
  by_cases h12 : k < 12
  · exact getLsbD_eq_of_extractLsb'_eq hc (by omega) (by omega)
  by_cases h16 : k < 16
  · exact getLsbD_eq_of_extractLsb'_eq hb (by omega) (by omega)
  by_cases h20 : k < 20
  · exact getLsbD_eq_of_extractLsb'_eq ha (by omega) (by omega)
  obtain rfl | rfl | h22 : k = 20 ∨ k = 21 ∨ 22 ≤ k := by omega
  · exact hm
  · exact hf
  by_cases h24 : k < 24
  · exact getLsbD_eq_of_extractLsb'_eq hupper (by omega) (by omega)
  · exact getLsbD_eq_of_extractLsb'_eq hop (by omega) (by omega)

/-- A row's fixed bits, field by field. -/
theorem hit_iff_fields (w : Word32) (r : Row) : r.hit w = true ↔
    w.extractLsb' 24 8 &&& r.mask.extractLsb' 24 8 = r.fixed.extractLsb' 24 8 ∧
    w.extractLsb' 22 2 &&& r.mask.extractLsb' 22 2 = r.fixed.extractLsb' 22 2 ∧
    (w.getLsbD 21 && r.mask.getLsbD 21) = r.fixed.getLsbD 21 ∧
    (w.getLsbD 20 && r.mask.getLsbD 20) = r.fixed.getLsbD 20 ∧
    w.extractLsb' 16 4 &&& r.mask.extractLsb' 16 4 = r.fixed.extractLsb' 16 4 ∧
    w.extractLsb' 12 4 &&& r.mask.extractLsb' 12 4 = r.fixed.extractLsb' 12 4 ∧
    w.extractLsb' 8 4 &&& r.mask.extractLsb' 8 4 = r.fixed.extractLsb' 8 4 ∧
    w.extractLsb' 4 4 &&& r.mask.extractLsb' 4 4 = r.fixed.extractLsb' 4 4 ∧
    w.extractLsb' 0 4 &&& r.mask.extractLsb' 0 4 = r.fixed.extractLsb' 0 4 := by
  simp only [Row.hit, beq_iff_eq, ← BitVec.extractLsb'_and, ← BitVec.getLsbD_and]
  constructor
  · intro h
    simp only [h, and_self]
  · rintro ⟨hop, hupper, hf, hm, ha, hb, hc, hd, hlow⟩
    exact word_eq_of_fields hop hupper hf hm ha hb hc hd hlow

/-! The masks of R96 that keep a whole field. -/

theorem and_255 (v : BitVec 8) : v &&& 255#8 = v := BitVec.and_allOnes
theorem and_three (v : BitVec 2) : v &&& 3#2 = v := BitVec.and_allOnes
theorem and_fifteen (v : BitVec 4) : v &&& 15#4 = v := BitVec.and_allOnes

/-- Bits 23:20 are the upper zeros of format R, `F` and `M` (R91, R92). -/
theorem upperFour_eq_zero_iff (w : Word32) :
    w.extractLsb' 20 4 = 0#4 ↔ w.extractLsb' 22 2 = 0#2 ∧ w.getLsbD 21 = false ∧ w.getLsbD 20 = false := by
  have parts : ∀ v : BitVec 4, v = 0#4 ↔ v.extractLsb' 2 2 = 0#2 ∧ v.getLsbD 1 = false ∧ v.getLsbD 0 = false := by
    decide
  have upperTwo : (w.extractLsb' 20 4).extractLsb' 2 2 = w.extractLsb' 22 2 := by
    ext k hk
    simp [show 2 + k < 4 by omega, ← Nat.add_assoc]
  rw [parts, upperTwo]
  simp

/-- Two general register fields name the same register exactly when they are equal (R94). -/
theorem regAt_eq_iff (w : Word32) (lo lo' : Nat) : regAt lo w = regAt lo' w ↔ w.extractLsb' lo 4 = w.extractLsb' lo' 4 := by
  have h := (w.extractLsb' lo 4).isLt
  have h' := (w.extractLsb' lo' 4).isLt
  simp only [regAt, Fin.ext_iff, Fin.val_ofNat, BitVec.toNat_eq]
  omega

/-! ## The fixed bits of an opcode (R91, R94, R96) -/

/-- The bits of an operand field that its use fixes at 0 (R94). -/
def FieldUse.mask : FieldUse → BitVec 4
  | .unused => 0xF
  | .general => 0
  | .point => 0xC

/-- The bits of a word that an opcode fixes: in the layout of format R, with the two runs of zeros of R91. -/
def OpFields.mask (r : OpFields) : Word32 :=
  formatR 0xFF (!r.f) (!r.m) r.a.mask r.b.mask r.c.mask r.d.mask ||| 0x00C0000F

/-- The fields of `w` that no command of the opcode has, whatever its other fields (R97). -/
def OpFields.badFields (r : OpFields) (w : Word32) : Bool :=
  w.extractLsb' 22 2 != 0 || w.extractLsb' 0 4 != 0 || (w.getLsbD 20 && !r.m) || (w.getLsbD 21 && !r.f) ||
    r.a.bad (w.extractLsb' 16 4) || r.b.bad (w.extractLsb' 12 4) || r.c.bad (w.extractLsb' 8 4) ||
    r.d.bad (w.extractLsb' 4 4)

theorem FieldUse.and_mask_eq_zero (u : FieldUse) (v : BitVec 4) : v &&& u.mask = 0#4 ↔ u.bad v = false := by
  revert v
  cases u <;> decide

/-- The fields in the order of `hit_iff_fields`. -/
theorem OpFields.badFields_eq_false_iff (r : OpFields) (w : Word32) : r.badFields w = false ↔
    w.extractLsb' 22 2 = 0#2 ∧ (w.getLsbD 21 && !r.f) = false ∧ (w.getLsbD 20 && !r.m) = false ∧
    r.a.bad (w.extractLsb' 16 4) = false ∧ r.b.bad (w.extractLsb' 12 4) = false ∧
    r.c.bad (w.extractLsb' 8 4) = false ∧ r.d.bad (w.extractLsb' 4 4) = false ∧ w.extractLsb' 0 4 = 0#4 := by
  simp only [OpFields.badFields, Bool.or_eq_false_iff, bne_eq_false_iff_eq]
  tauto

/-- A row with the fixed bits of an opcode is hit by the opcode's words that have no bad field. -/
theorem hit_eq_not_badFields {row : Row} {r : OpFields} {w : Word32} (hmask : row.mask = r.mask)
    (hfixed : row.fixed = formatR r.op false false 0 0 0 0) (hop : w.extractLsb' 24 8 = r.op) :
    row.hit w = !r.badFields w := by
  rw [Bool.eq_iff_iff, hit_iff_fields, hmask, hfixed, Bool.not_eq_true', r.badFields_eq_false_iff]
  simp only [OpFields.mask, BitVec.extractLsb'_or, BitVec.getLsbD_or, formatR_op, formatR_upperZero, formatR_flag,
    formatR_modulus, formatR_fieldA, formatR_fieldB, formatR_fieldC, formatR_fieldD, formatR_lowZero,
    BitVec.reduceExtractLsb', BitVec.reduceGetLsb, BitVec.ofNat_eq_ofNat, BitVec.or_zero, BitVec.zero_or,
    Bool.or_false, hop, FieldUse.and_mask_eq_zero]
  simp only [and_255, and_three, and_fifteen, true_and]

/-! ## The rows of an opcode (R96) -/

/-- The rows of the opcode map with opcode `op`. -/
def rowsOf (op : BitVec 8) : List Row := rows.filter fun row => row.fixed.extractLsb' 24 8 == op

/-- Every row fixes the whole opcode. -/
theorem opcode_of_hit {w : Word32} {row : Row} (hrow : row ∈ rows) (h : row.hit w = true) :
    row.fixed.extractLsb' 24 8 = w.extractLsb' 24 8 := by
  have hmask : ∀ row ∈ rows, row.mask.extractLsb' 24 8 = BitVec.allOnes 8 := by decide
  have hop := ((hit_iff_fields w row).mp h).1
  rw [hmask row hrow, BitVec.and_allOnes] at hop
  exact hop.symm

/-- The decoder's search only concerns the rows of the word's opcode. -/
theorem find_rows (w : Word32) : rows.find? (Row.hit w) = (rowsOf (w.extractLsb' 24 8)).find? (Row.hit w) := by
  rw [rowsOf, List.find?_filter]
  refine List.find?_congr fun row hrow => ?_
  by_cases h : row.hit w = true
  · simp [h, opcode_of_hit hrow h]
  · simp [h]

/-- `Illegal` is the answer when no row of the opcode is hit, or the one hit gives an ill-formed command (R97, R99). -/
theorem decode_eq_error_iff (w : Word32) : (∃ e, decode w = .error e) ↔
    ∀ row, (rowsOf (w.extractLsb' 24 8)).find? (Row.hit w) = some row → (row.build w).wf = false := by
  rw [decode, find_rows]
  cases (rowsOf (w.extractLsb' 24 8)).find? (Row.hit w) with
  | none => simp
  | some row => cases h : (row.build w).wf <;> simp [h]

/-- Outside `MRED`, an opcode of format R has one row, and the row fixes the bits of the opcode. -/
theorem rowsOf_eq_singleton {r : OpFields} (hr : r ∈ opFields) (hmred : r.op ≠ 0x16#8) :
    ∃ row, rowsOf r.op = [row] ∧ row.mask = r.mask ∧ row.fixed = formatR r.op false false 0 0 0 0 := by
  have table : ∀ r ∈ opFields, r.op ≠ 0x16#8 → (rowsOf r.op).map (fun row => (row.mask, row.fixed)) =
      [(r.mask, formatR r.op false false 0 0 0 0)] := by decide
  obtain ⟨row, hrows, hbits⟩ := List.map_eq_singleton_iff.mp (table r hr hmred)
  obtain ⟨hmask, hfixed⟩ := Prod.mk.inj hbits
  exact ⟨row, hrows, hmask, hfixed⟩

/-- Every row but `SIGN` builds well-formed commands only. -/
theorem wf_build_of_ne_sign {row : Row} (hrow : row ∈ rows) (hsign : row.fixed.extractLsb' 24 8 ≠ 0x34#8)
    (w : Word32) : (row.build w).wf = true := by
  revert row
  simp [rows, systemRows, fieldRows, pointRows, ecdsaRows, Instr.wf]

theorem mem_rowsOf {op : BitVec 8} {row : Row} : row ∈ rowsOf op ↔ row ∈ rows ∧ row.fixed.extractLsb' 24 8 = op := by
  simp [rowsOf]

/-! ## The illegal words of an opcode (R97) -/

section
variable {w : Word32}

/-- Under any opcode but `SIGN`'s, the illegal words are those that hit no row. -/
theorem decode_eq_error_iff_no_hit (hsign : w.extractLsb' 24 8 ≠ 0x34#8) :
    (∃ e, decode w = .error e) ↔ ∀ row ∈ rowsOf (w.extractLsb' 24 8), row.hit w = false := by
  have hwf : ∀ row ∈ rowsOf (w.extractLsb' 24 8), (row.build w).wf = true := by
    intro row hrow
    obtain ⟨hrow, hop⟩ := mem_rowsOf.mp hrow
    exact wf_build_of_ne_sign hrow (hop ▸ hsign) w
  rw [decode_eq_error_iff]
  constructor
  · intro h row hrow
    have hnone : (rowsOf (w.extractLsb' 24 8)).find? (Row.hit w) = none :=
      Option.eq_none_iff_forall_ne_some.mpr fun found hfound => by
        simpa [h found hfound] using hwf found (List.mem_of_find?_eq_some hfound)
    simpa using List.find?_eq_none.mp hnone row hrow
  · intro h row hfind
    have hmiss := h row (List.mem_of_find?_eq_some hfind)
    simp [List.find?_some hfind] at hmiss

/-- `LDI`: format I fixes the opcode and bits 23:20 only (R92). -/
theorem decode_eq_error_iff_of_ldi (hop : w.extractLsb' 24 8 = 0x02#8) :
    (∃ e, decode w = .error e) ↔ w.extractLsb' 20 4 ≠ 0#4 := by
  have hhit : rows[2].hit w = true ↔ w.extractLsb' 20 4 = 0#4 := by
    rw [hit_iff_fields, upperFour_eq_zero_iff]
    simp [rows, systemRows, hop, and_three, -BitVec.getLsbD_eq_getElem]
  rw [decode_eq_error_iff_no_hit (by simp [hop]), hop, show rowsOf 0x02#8 = [rows[2]] from rfl]
  simp [← Bool.not_eq_true, hhit]

/-- An opcode that R96 does not list. -/
theorem exists_decode_eq_error_of_unlisted (hldi : w.extractLsb' 24 8 ≠ 0x02#8)
    (hop : ∀ r ∈ opFields, r.op ≠ w.extractLsb' 24 8) : ∃ e, decode w = .error e := by
  have listed : ∀ row ∈ rows, row.fixed.extractLsb' 24 8 = 0x02#8 ∨
      ∃ r ∈ opFields, r.op = row.fixed.extractLsb' 24 8 := by decide
  rw [decode_eq_error_iff]
  intro row hfind
  obtain ⟨hrow, heq⟩ := mem_rowsOf.mp (List.mem_of_find?_eq_some hfind)
  obtain h | ⟨r, hr, h⟩ := listed row hrow
  · exact absurd (heq.symm.trans h) hldi
  · exact absurd (h.trans heq) (hop r hr)

/-- The opcodes of format R with one row and no rule of their own. -/
theorem decode_eq_error_iff_of_common {r : OpFields} (hr : r ∈ opFields) (hop : w.extractLsb' 24 8 = r.op)
    (hmred : r.op ≠ 0x16#8) (hsign : r.op ≠ 0x34#8) : (∃ e, decode w = .error e) ↔ r.badFields w = true := by
  obtain ⟨row, hrows, hmask, hfixed⟩ := rowsOf_eq_singleton hr hmred
  rw [decode_eq_error_iff_no_hit (hop ▸ hsign), hop, hrows]
  simp [hit_eq_not_badFields hmask hfixed hop]

/-- `SIGN`: also the words with `rd = re` (R97), which its row's mask cannot express. -/
theorem decode_eq_error_iff_of_sign {r : OpFields} (hr : r ∈ opFields) (hop : w.extractLsb' 24 8 = r.op)
    (hsign : r.op = 0x34#8) :
    (∃ e, decode w = .error e) ↔ r.badFields w = true ∨ w.extractLsb' 16 4 = w.extractLsb' 4 4 := by
  obtain ⟨row, hrows, hmask, hfixed⟩ := rowsOf_eq_singleton hr (by simp [hsign])
  have hwf : (row.build w).wf = false ↔ w.extractLsb' 16 4 = w.extractLsb' 4 4 := by
    rw [hsign] at hrows
    cases hrows
    simp [Instr.wf, fieldA, fieldD, regAt_eq_iff]
  rw [decode_eq_error_iff, hop, hrows, List.find?_singleton, hit_eq_not_badFields hmask hfixed hop, ← hwf]
  cases r.badFields w <;> simp

/-- The opcode of `MRED`, with its two rows (R96). -/
def mredFields : OpFields := ⟨0x16, true, true, .general, .general, .general, .unused⟩

theorem badFields_mredFields_iff : mredFields.badFields w = false ↔
    w.extractLsb' 22 2 = 0#2 ∧ w.extractLsb' 4 4 = 0#4 ∧ w.extractLsb' 0 4 = 0#4 := by
  simp [OpFields.badFields_eq_false_iff, mredFields, FieldUse.bad]

theorem hit_mred_iff (hop : w.extractLsb' 24 8 = 0x16#8) : rows[10].hit w = true ↔
    mredFields.badFields w = false ∧ w.getLsbD 21 = false ∧ w.extractLsb' 12 4 = 0#4 := by
  rw [hit_iff_fields, badFields_mredFields_iff]
  simp [rows, systemRows, fieldRows, hop, and_three, and_fifteen, and_assoc, and_comm, and_left_comm]

theorem hit_mredW_iff (hop : w.extractLsb' 24 8 = 0x16#8) : rows[11].hit w = true ↔
    mredFields.badFields w = false ∧ w.getLsbD 21 = true := by
  rw [hit_iff_fields, badFields_mredFields_iff]
  simp [rows, systemRows, fieldRows, hop, and_three, and_fifteen, and_assoc, and_comm, and_left_comm]

/-- `MRED`: without `W`, `B` is unused (R96). -/
theorem decode_eq_error_iff_of_mred {r : OpFields} (hr : r ∈ opFields) (hop : w.extractLsb' 24 8 = r.op)
    (hmred : r.op = 0x16#8) :
    (∃ e, decode w = .error e) ↔ r.badFields w = true ∨ (w.getLsbD 21 = false ∧ w.extractLsb' 12 4 ≠ 0#4) := by
  have only : ∀ r ∈ opFields, r.op = 0x16#8 → r = mredFields := by decide
  obtain rfl := only r hr hmred
  rw [hmred] at hop
  rw [decode_eq_error_iff_no_hit (by simp [hop]), hop, show rowsOf 0x16#8 = [rows[10], rows[11]] from rfl]
  simp only [List.forall_mem_cons, ← Bool.not_eq_true (Row.hit w _), hit_mred_iff hop, hit_mredW_iff hop]
  cases mredFields.badFields w <;> cases w.getLsbD 21 <;> simp

/-! The list of R97, case by case. -/

theorem illegalByList_of_find {r : OpFields} (hldi : w.extractLsb' 24 8 ≠ 0x02#8)
    (h : opFields.find? (fun r => r.op == w.extractLsb' 24 8) = some r) : illegalByList w =
      (r.badFields w || (r.op == 0x16 && !w.getLsbD 21 && w.extractLsb' 12 4 != 0) ||
        (r.op == 0x34 && w.extractLsb' 16 4 == w.extractLsb' 4 4)) := by
  rw [illegalByList, BitVec.ofNat_eq_ofNat, if_neg hldi, h]
  rfl

theorem illegalByList_of_ldi (hop : w.extractLsb' 24 8 = 0x02#8) :
    illegalByList w = true ↔ w.extractLsb' 20 4 ≠ 0#4 := by
  rw [illegalByList, BitVec.ofNat_eq_ofNat, if_pos hop, bne_iff_ne]
  rfl

theorem illegalByList_of_unlisted (hldi : w.extractLsb' 24 8 ≠ 0x02#8)
    (h : opFields.find? (fun r => r.op == w.extractLsb' 24 8) = none) : illegalByList w = true := by
  rw [illegalByList, BitVec.ofNat_eq_ofNat, if_neg hldi, h]

/-- The words that fail to decode are those of the list of R97. -/
theorem decode_eq_error_iff_illegalByList (w : Word32) : (∃ e, decode w = .error e) ↔ illegalByList w = true := by
  by_cases hldi : w.extractLsb' 24 8 = 0x02#8
  · rw [decode_eq_error_iff_of_ldi hldi, illegalByList_of_ldi hldi]
  cases hfind : opFields.find? (fun r => r.op == w.extractLsb' 24 8) with
  | none =>
    have hop : ∀ r ∈ opFields, r.op ≠ w.extractLsb' 24 8 := by simpa using hfind
    exact iff_of_true (exists_decode_eq_error_of_unlisted hldi hop) (illegalByList_of_unlisted hldi hfind)
  | some r =>
    have hr : r ∈ opFields := List.mem_of_find?_eq_some hfind
    have hop : w.extractLsb' 24 8 = r.op := by
      have hfound := List.find?_some hfind
      exact (beq_iff_eq.mp hfound).symm
    rw [illegalByList_of_find hldi hfind]
    by_cases hmred : r.op = 0x16#8
    · rw [decode_eq_error_iff_of_mred hr hop hmred]
      simp [hmred]
    by_cases hsign : r.op = 0x34#8
    · rw [decode_eq_error_iff_of_sign hr hop hsign]
      simp [hsign]
    · rw [decode_eq_error_iff_of_common hr hop hmred hsign]
      simp [hmred, hsign]

/-- An illegal word in `CMD` makes the engine's turn end with `ILLEGAL_CMD` (R97, R302). -/
theorem engineTurn_of_decode_error {s : State} {e : Illegal} (hbusy : s.busy = true) (h : decode s.cmd = .error e) :
    engineTurn s = raiseError .illegalCmd s := by
  simp [engineTurn, hbusy, h]

end

/-! ## The obligation -/

/-- Settles O5: `decode_eq_error_iff_illegalByList` (opcode by opcode), the write lemma of `CMD`, and the error of the
engine's turn. -/
theorem illegalWordsCompleteWithError : Obligations.IllegalWordsCompleteWithError := by
  intro w
  refine ⟨decode_eq_error_iff_illegalByList w, fun hillegal => ⟨fun s hfree => ?_, fun s hbusy hcmd => ?_⟩⟩
  · rw [memWrite_cmd_of_free w hfree]
    exact ⟨rfl, rfl, rfl⟩
  · obtain ⟨e, he⟩ := (decode_eq_error_iff_illegalByList w).mpr hillegal
    rw [engineTurn_of_decode_error hbusy (hcmd ▸ he)]
    exact errs_raiseError _ s

end Sys2Proof.Machine
end

section
/-! SUPPORT. The decoder on a format R word (R91, R96, R99): the fields of the word are read back, and when the opcode
allows them the word decodes to what its row builds. With it, the words of the modular arithmetic commands. -/

namespace Sys2Proof.Machine

/-! ## The operands of a format R word (R91 to R94) -/

section
variable (op : BitVec 8) (f mbit : Bool) (a b c d : BitVec 4)

@[simp] theorem fieldA_formatR (r : Reg) : fieldA (formatR op f mbit r.bits b c d) = r := regAt_bits (formatR_fieldA ..)
@[simp] theorem fieldB_formatR (r : Reg) : fieldB (formatR op f mbit a r.bits c d) = r := regAt_bits (formatR_fieldB ..)
@[simp] theorem fieldC_formatR (r : Reg) : fieldC (formatR op f mbit a b r.bits d) = r := regAt_bits (formatR_fieldC ..)

@[simp] theorem flagBit_formatR : flagBit (formatR op f mbit a b c d) = f := formatR_flag ..

@[simp] theorem modulusBit_formatR (m : Modulus) : modulusBit (formatR op f m.bit a b c d) = m := by
  rw [modulusBit, formatR_modulus]
  cases m <;> rfl

/-- The bad fields of a format R word are those of its parts (R97). -/
@[simp] theorem OpFields.badFields_formatR (r : OpFields) : r.badFields (formatR op f mbit a b c d) =
    (mbit && !r.m || f && !r.f || r.a.bad a || r.b.bad b || r.c.bad c || r.d.bad d) := by
  simp [OpFields.badFields, -BitVec.getLsbD_eq_getElem, formatR_upperZero, formatR_lowZero, formatR_modulus,
    formatR_flag, formatR_fieldA, formatR_fieldB, formatR_fieldC, formatR_fieldD]

end

/-! ## Words that decode (R99) -/

section
variable {w : Word32} {row : Row} {i : Instr}

/-- The first row of the word's opcode that the word hits gives the command. -/
theorem decode_eq_ok (hfind : (rowsOf (w.extractLsb' 24 8)).find? (Row.hit w) = some row) (hbuild : row.build w = i)
    (hwf : i.wf = true) : decode w = .ok i := by
  rw [decode, find_rows, hfind]
  simp [hbuild, hwf]

/-- Outside `MRED`, a format R word with no bad field decodes to what its opcode's one row builds. -/
theorem encoded_formatR {r : OpFields} {f mbit : Bool} {a b c d : BitVec 4} (hrows : rowsOf r.op = [row])
    (hencode : encode i = formatR r.op f mbit a b c d) (hbuild : row.build (formatR r.op f mbit a b c d) = i)
    (hfields : r.badFields (formatR r.op f mbit a b c d) = false)
    (hwf : i.wf = true := by rfl) (hr : r ∈ opFields := by decide) (hmred : r.op ≠ 0x16#8 := by decide) :
    Encoded i (formatR r.op f mbit a b c d) := by
  obtain ⟨row', hrows', hmask, hfixed⟩ := rowsOf_eq_singleton hr hmred
  obtain rfl : row = row' := by simpa [hrows] using hrows'
  have hhit : row.hit (formatR r.op f mbit a b c d) = true := by
    rw [hit_eq_not_badFields hmask hfixed (formatR_op ..), hfields]
    rfl
  refine ⟨hencode, decode_eq_ok (row := row) ?_ hbuild hwf⟩
  rw [formatR_op, hrows, List.find?_singleton, hhit]
  rfl

/-! `MRED` has two rows (R96): the first asks for `W = 0` and `B` zero, the second for `W = 1`. -/

theorem rowsOf_mred : rowsOf 0x16#8 = [rows[10], rows[11]] := rfl

theorem find_mred (hop : w.extractLsb' 24 8 = 0x16#8) (hgood : mredFields.badFields w = false)
    (hflag : w.getLsbD 21 = false) (hzero : w.extractLsb' 12 4 = 0#4) :
    (rowsOf (w.extractLsb' 24 8)).find? (Row.hit w) = some rows[10] := by
  have hhit : rows[10].hit w = true := (hit_mred_iff hop).mpr ⟨hgood, hflag, hzero⟩
  rw [hop, rowsOf_mred, List.find?_cons_of_pos hhit]

theorem find_mredW (hop : w.extractLsb' 24 8 = 0x16#8) (hgood : mredFields.badFields w = false)
    (hflag : w.getLsbD 21 = true) : (rowsOf (w.extractLsb' 24 8)).find? (Row.hit w) = some rows[11] := by
  have hmiss : ¬ rows[10].hit w = true := by
    rw [hit_mred_iff hop, hflag]
    simp
  have hhit : rows[11].hit w = true := (hit_mredW_iff hop).mpr ⟨hgood, hflag⟩
  rw [hop, rowsOf_mred, List.find?_cons_of_neg hmiss,
    List.find?_cons_of_pos hhit]

end

/-! ## The words of the modular arithmetic commands (R96) -/

section
variable (m : Modulus) (neg : Bool) (rd ra rb : Reg)

theorem encoded_fadd : Encoded (.fadd m rd ra rb) (formatR 0x10 false m.bit rd.bits ra.bits rb.bits 0) :=
  encoded_formatR (r := opFields[3]) (row := rows[4]) rfl rfl (by simp [rows, systemRows, fieldRows])
    (by simp [opFields, FieldUse.bad])

theorem encoded_fsub : Encoded (.fsub m rd ra rb) (formatR 0x11 false m.bit rd.bits ra.bits rb.bits 0) :=
  encoded_formatR (r := opFields[4]) (row := rows[5]) rfl rfl (by simp [rows, systemRows, fieldRows])
    (by simp [opFields, FieldUse.bad])

theorem encoded_fmul : Encoded (.fmul m rd ra rb) (formatR 0x12 false m.bit rd.bits ra.bits rb.bits 0) :=
  encoded_formatR (r := opFields[5]) (row := rows[6]) rfl rfl (by simp [rows, systemRows, fieldRows])
    (by simp [opFields, FieldUse.bad])

theorem encoded_fpow : Encoded (.fpow m neg rd ra rb) (formatR 0x13 neg m.bit rd.bits ra.bits rb.bits 0) :=
  encoded_formatR (r := opFields[6]) (row := rows[7]) rfl rfl (by simp [rows, systemRows, fieldRows])
    (by simp [opFields, FieldUse.bad])

theorem encoded_finv : Encoded (.finv m rd ra) (formatR 0x14 false m.bit rd.bits ra.bits 0 0) :=
  encoded_formatR (r := opFields[7]) (row := rows[8]) rfl rfl (by simp [rows, systemRows, fieldRows])
    (by simp [opFields, FieldUse.bad])

theorem encoded_fdiv : Encoded (.fdiv m rd ra rb) (formatR 0x15 false m.bit rd.bits ra.bits rb.bits 0) :=
  encoded_formatR (r := opFields[8]) (row := rows[9]) rfl rfl (by simp [rows, systemRows, fieldRows])
    (by simp [opFields, FieldUse.bad])

theorem encoded_mred : Encoded (.mred m rd rb) (formatR 0x16 false m.bit rd.bits 0 rb.bits 0) :=
  ⟨rfl, decode_eq_ok (find_mred (formatR_op ..) (by simp [mredFields, FieldUse.bad])
    (formatR_flag ..) (formatR_fieldB ..)) (by simp [rows, systemRows, fieldRows]) rfl⟩

theorem encoded_mredW : Encoded (.mredW m rd ra rb) (formatR 0x16 true m.bit rd.bits ra.bits rb.bits 0) :=
  ⟨rfl, decode_eq_ok (find_mredW (formatR_op ..) (by simp [mredFields, FieldUse.bad])
    (formatR_flag ..)) (by simp [rows, systemRows, fieldRows]) rfl⟩

end

end Sys2Proof.Machine
end

section
/-! SUPPORT. The modular arithmetic commands: what each does with its sources in range, with one out of range and with a
zero divisor (R128 to R134), and the inverse modulo a prime (R125). -/

namespace Sys2Proof.Machine

/-! ## The inverse modulo a prime -/

section
variable {b m : Nat} (hp : m.Prime) (hm : 2 < m) (hm' : m < 2 ^ 256) (hb : 0 < b) (hlt : b < m)
include hp hm hm' hb hlt

/-- `fmul_finv` for a nonzero residue, with the inverse written as the Fermat power. -/
theorem mul_fermat_mod : b * (b ^ (m - 2) % m) % m = 1 := by
  rw [← finv_eq hm hm']
  exact fmul_finv hp hm hm' (by rw [Nat.mod_eq_of_lt hlt]; omega)

theorem fermat_ne_zero : b ^ (m - 2) % m ≠ 0 := by
  intro h
  simpa [h] using mul_fermat_mod hp hm hm' hb hlt

/-- The Fermat power is the only inverse below the modulus: `b` can be cancelled modulo a prime. -/
theorem mul_mod_eq_one_iff_eq_fermat {c : Nat} (hc : c < m) : b * c % m = 1 ↔ c = b ^ (m - 2) % m := by
  constructor
  · intro h
    have hmod : b * c ≡ b * (b ^ (m - 2) % m) [MOD m] := h.trans (mul_fermat_mod hp hm hm' hb hlt).symm
    have hcop : m.gcd b = 1 := Nat.coprime_of_lt_prime hb.ne' hlt hp
    have hcancel : c % m = b ^ (m - 2) % m % m := Nat.ModEq.cancel_left_of_coprime hcop hmod
    rwa [Nat.mod_eq_of_lt hc, Nat.mod_mod] at hcancel
  · rintro rfl
    exact mul_fermat_mod hp hm hm' hb hlt

/-- Dividing and multiplying back. -/
theorem mul_fermat_mul_mod {a : Nat} (ha : a < m) : a * (b ^ (m - 2) % m) % m * b % m = a := by
  calc a * (b ^ (m - 2) % m) % m * b % m
      = a * (b * (b ^ (m - 2) % m) % m) % m := by
        rw [Nat.mod_mul_mod, Nat.mul_mod_mod, mul_assoc, mul_comm b]
    _ = a := by rw [mul_fermat_mod hp hm hm' hb hlt, mul_one, Nat.mod_eq_of_lt ha]

end

/-! ## The commands, end by end -/

section
variable {s : State} {m : Modulus} {rd ra rb : Reg}

/-- A result below the modulus fits a register. -/
theorem givesNumber_completeResult {v : Nat} (hv : v < modulus m) : GivesNumber s (completeResult rd v s) rd v :=
  completes_completeResult rd v s (hv.trans (modulus_lt m))

/-- For a result that is not 0, `completeResult` writes `Z` as `FINV` does. -/
theorem completeResult_of_ne_zero {v : Nat} (hv : v < 2 ^ 256) (h0 : v ≠ 0) :
    completeResult rd v s = complete ((s.setReg rd (BitVec.ofNat 256 v)).setZ false) := by
  have hz : isZero (BitVec.ofNat 256 v) = false := by
    rw [isZero, beq_eq_false_iff_ne, ne_eq, BitVec.toNat_eq, BitVec.toNat_ofNat, Nat.mod_eq_of_lt hv]
    exact h0
  rw [completeResult, hz]

/-! `FADD`, `FSUB`, `FMUL` (R128 to R130) -/

theorem givesNumber_binaryField {f : Nat → Nat → Nat → Nat} (ha : s.num ra < modulus m) (hb : s.num rb < modulus m)
    (hf : f (s.num ra) (s.num rb) (modulus m) < modulus m) :
    GivesNumber s (binaryField f m rd ra rb s) rd (f (s.num ra) (s.num rb) (modulus m)) := by
  rw [binaryField, if_pos ((inRange_two ..).mpr ⟨ha, hb⟩)]
  exact givesNumber_completeResult hf

theorem not_inRange_two (h : modulus m ≤ s.num ra ∨ modulus m ≤ s.num rb) :
    ¬ s.inRange (modulus m) [ra, rb] = true := by
  rw [inRange_two]
  omega

theorem errs_binaryField (f : Nat → Nat → Nat → Nat) (h : modulus m ≤ s.num ra ∨ modulus m ≤ s.num rb) :
    Errs s (binaryField f m rd ra rb s) .operandRange := by
  rw [binaryField, if_neg (not_inRange_two h)]
  exact errs_raiseError ..

/-! `FPOW` (R124, R131) -/

theorem effectiveExponent_neg {E e m : Nat} (he : (e : Int) = -(E : Int) % ((m : Int) - 1)) :
    effectiveExponent E true m = e := by
  simp [effectiveExponent, ← he]

theorem givesNumber_execFpow (neg : Bool) (ha : s.num ra < modulus m) : GivesNumber s (execFpow m neg rd ra rb s) rd
    (s.num ra ^ effectiveExponent (s.num rb) neg (modulus m) % modulus m) := by
  rw [execFpow, if_pos ((inRange_one ..).mpr ha), fpow_eq neg (num_lt s rb) (modulus_gt_two m) (modulus_lt m)]
  exact givesNumber_completeResult (Nat.mod_lt _ (modulus_pos m))

theorem errs_execFpow (neg : Bool) (h : modulus m ≤ s.num ra) :
    Errs s (execFpow m neg rd ra rb s) .operandRange := by
  rw [execFpow, if_neg (mt (inRange_one ..).mp h.not_gt)]
  exact errs_raiseError ..

/-! `FINV` (R132) -/

theorem givesNumber_execFinv (h0 : 0 < s.num ra) (ha : s.num ra < modulus m) :
    GivesNumber s (execFinv m rd ra s) rd (s.num ra ^ (modulus m - 2) % modulus m) := by
  have hlt := Nat.mod_lt (s.num ra ^ (modulus m - 2)) (modulus_pos m)
  have hne := fermat_ne_zero (modulus_prime m) (modulus_gt_two m) (modulus_lt m) h0 ha
  rw [execFinv, if_pos ((inRange_one ..).mpr ha), if_neg h0.ne', finv_eq (modulus_gt_two m) (modulus_lt m),
    ← completeResult_of_ne_zero (hlt.trans (modulus_lt m)) hne]
  exact givesNumber_completeResult hlt

theorem dies_execFinv (h : s.num ra = 0) : Dies s (execFinv m rd ra s) .divZero := by
  rw [execFinv, if_pos ((inRange_one ..).mpr (h ▸ modulus_pos m)), if_pos h]
  exact dies_raiseFatal ..

theorem errs_execFinv (h : modulus m ≤ s.num ra) : Errs s (execFinv m rd ra s) .operandRange := by
  rw [execFinv, if_neg (mt (inRange_one ..).mp h.not_gt)]
  exact errs_raiseError ..

/-! `FDIV` (R126, R133) -/

theorem givesNumber_execFdiv (ha : s.num ra < modulus m) (h0 : 0 < s.num rb) (hb : s.num rb < modulus m) :
    GivesNumber s (execFdiv m rd ra rb s) rd (s.num ra * (s.num rb ^ (modulus m - 2) % modulus m) % modulus m) := by
  rw [execFdiv, if_pos ((inRange_two ..).mpr ⟨ha, hb⟩), if_neg h0.ne', fdiv,
    finv_eq (modulus_gt_two m) (modulus_lt m)]
  exact givesNumber_completeResult (fmul_lt (modulus_pos m) ..)

theorem dies_execFdiv (ha : s.num ra < modulus m) (hb : s.num rb = 0) :
    Dies s (execFdiv m rd ra rb s) .divZero := by
  rw [execFdiv, if_pos ((inRange_two ..).mpr ⟨ha, hb ▸ modulus_pos m⟩), if_pos hb]
  exact dies_raiseFatal ..

theorem errs_execFdiv (h : modulus m ≤ s.num ra ∨ modulus m ≤ s.num rb) :
    Errs s (execFdiv m rd ra rb s) .operandRange := by
  rw [execFdiv, if_neg (not_inRange_two h)]
  exact errs_raiseError ..

/-! `MRED` (R127, R134) -/

theorem givesNumber_execMredW : GivesNumber s (execMredW m rd ra rb s) rd
    ((s.num ra * 2 ^ 256 + s.num rb) % modulus m) :=
  givesNumber_completeResult (mred_lt (modulus_pos m) ..)

theorem givesNumber_execMred : GivesNumber s (execMred m rd rb s) rd (s.num rb % modulus m) := by
  have hlow : mred 0 (s.num rb) (modulus m) = s.num rb % modulus m := by rw [mred, Nat.zero_mul, Nat.zero_add]
  rw [execMred, hlow]
  exact givesNumber_completeResult (Nat.mod_lt _ (modulus_pos m))

end

/-! ## The obligations -/

/-- Settles O20: the three commands are `binaryField` of `fadd`, `fsub` and `fmul`, whose results are residues. -/
theorem addSubMulResults : Obligations.AddSubMulResults := fun _ m rd ra rb =>
  have hm := modulus_pos m
  ⟨encoded_fadd m rd ra rb, encoded_fsub m rd ra rb, encoded_fmul m rd ra rb,
    fun ha hb => ⟨givesNumber_binaryField ha hb (fadd_lt hm ..), givesNumber_binaryField ha hb (fsub_lt hm ..),
      givesNumber_binaryField ha hb (fmul_lt hm ..)⟩,
    fun h => ⟨errs_binaryField fadd h, errs_binaryField fsub h, errs_binaryField fmul h⟩⟩

/-- Settles O21: the square-and-multiply loop computes the power by the effective exponent. -/
theorem powResult : Obligations.PowResult := by
  intro s m neg rd ra rb
  refine ⟨encoded_fpow m neg rd ra rb, fun ha => ⟨?_, ?_⟩, errs_execFpow neg⟩
  · rintro rfl
    exact givesNumber_execFpow false ha
  · rintro rfl e he
    rw [← effectiveExponent_neg he]
    exact givesNumber_execFpow true ha

/-- Settles O22: the modulus is prime, so the Fermat power is the one inverse of a nonzero residue. -/
theorem inverseResult : Obligations.InverseResult := fun _ m rd ra =>
  have hp := modulus_prime m
  have hm := modulus_gt_two m
  have hm' := modulus_lt m
  ⟨encoded_finv m rd ra,
    fun h0 ha => ⟨givesNumber_execFinv h0 ha, fermat_ne_zero hp hm hm' h0 ha,
      fun _ => mul_mod_eq_one_iff_eq_fermat hp hm hm' h0 ha⟩,
    dies_execFinv, errs_execFinv⟩

/-- Settles O23: the quotient multiplied back by `mul_fermat_mul_mod`, and the two checks in their order. -/
theorem divisionResult : Obligations.DivisionResult := fun _ m rd ra rb =>
  ⟨encoded_fdiv m rd ra rb,
    fun ha h0 hb => ⟨givesNumber_execFdiv ha h0 hb,
      mul_fermat_mul_mod (modulus_prime m) (modulus_gt_two m) (modulus_lt m) h0 hb ha⟩,
    dies_execFdiv, errs_execFdiv⟩

/-- Settles O24: `MRED` is the wide reduction with the upper half 0. -/
theorem reductionResults : Obligations.ReductionResults := fun _ m rd ra rb =>
  ⟨encoded_mred m rd rb, encoded_mredW m rd ra rb, givesNumber_execMred, givesNumber_execMredW⟩

end Sys2Proof.Machine
end

section
/-! SUPPORT. The words of the point commands `PSET PINF PMOV PGETX PGETY PEQ PLDG` (R96): point registers are read back
from the fields of a format R word (R94), and their numbers are at most 3, so no point field of such a word is bad
(R97). -/

namespace Sys2Proof.Machine

/-! ## Point operands of a format R word (R91 to R94) -/

section
variable (op : BitVec 8) (f mbit : Bool) (a b c d : BitVec 4) (q : PReg)

@[simp] theorem pointA_formatR : pointA (formatR op f mbit q.bits b c d) = q := pregAt_bits (formatR_fieldA ..)
@[simp] theorem pointB_formatR : pointB (formatR op f mbit a q.bits c d) = q := pregAt_bits (formatR_fieldB ..)
@[simp] theorem pointC_formatR : pointC (formatR op f mbit a b q.bits d) = q := pregAt_bits (formatR_fieldC ..)

@[simp] theorem PReg.toNat_bits_le : q.bits.toNat ≤ 3 := by
  revert q
  decide

end

/-! ## The words of the commands (R96) -/

section
variable (pd : PReg) (rd : Reg) (pa pb : PReg) (ra rb : Reg)

theorem encoded_pset : Encoded (.pset pd ra rb) (formatR 0x20 false false pd.bits ra.bits rb.bits 0) :=
  encoded_formatR (r := opFields[12]) (row := rows[14]) rfl rfl (by simp [rows, systemRows, fieldRows, pointRows])
    (by simp [opFields, FieldUse.bad])

theorem encoded_pinf : Encoded (.pinf pd) (formatR 0x21 false false pd.bits 0 0 0) :=
  encoded_formatR (r := opFields[13]) (row := rows[15]) rfl rfl (by simp [rows, systemRows, fieldRows, pointRows])
    (by simp [opFields, FieldUse.bad])

theorem encoded_pmov : Encoded (.pmov pd pa) (formatR 0x22 false false pd.bits pa.bits 0 0) :=
  encoded_formatR (r := opFields[14]) (row := rows[16]) rfl rfl (by simp [rows, systemRows, fieldRows, pointRows])
    (by simp [opFields, FieldUse.bad])

theorem encoded_pgetx : Encoded (.pgetx rd pa) (formatR 0x25 false false rd.bits pa.bits 0 0) :=
  encoded_formatR (r := opFields[17]) (row := rows[19]) rfl rfl (by simp [rows, systemRows, fieldRows, pointRows])
    (by simp [opFields, FieldUse.bad])

theorem encoded_pgety : Encoded (.pgety rd pa) (formatR 0x26 false false rd.bits pa.bits 0 0) :=
  encoded_formatR (r := opFields[18]) (row := rows[20]) rfl rfl (by simp [rows, systemRows, fieldRows, pointRows])
    (by simp [opFields, FieldUse.bad])

theorem encoded_peq : Encoded (.peq pa pb) (formatR 0x27 false false 0 pa.bits pb.bits 0) :=
  encoded_formatR (r := opFields[19]) (row := rows[21]) rfl rfl (by simp [rows, systemRows, fieldRows, pointRows])
    (by simp [opFields, FieldUse.bad])

theorem encoded_pldg : Encoded (.pldg pd) (formatR 0x28 false false pd.bits 0 0 0) :=
  encoded_formatR (r := opFields[20]) (row := rows[22]) rfl rfl (by simp [rows, systemRows, fieldRows, pointRows])
    (by simp [opFields, FieldUse.bad])

end

end Sys2Proof.Machine
end

section
/-! SUPPORT. The point commands end by end: a point written with its `INF`, a coordinate read with its `ODD`, and the
curve equation that `PSET` checks (R151, R156 to R163, R181). -/

namespace Sys2Proof.Machine

/-! ## The curve equation (R151) -/

theorem curveRhs_eq (c : Curve) (x : Nat) : curveRhs c x = (x ^ 3 + c.a * x + c.b) % c.p := by
  simp only [curveRhs, fadd, fmul, Nat.mod_add_mod, Nat.add_mod_mod, Nat.mod_mul_mod]
  ring_nf

theorem onCurve_iff (c : Curve) (x y : Nat) :
    onCurve c x y = true ↔ y ^ 2 % c.p = (x ^ 3 + c.a * x + c.b) % c.p := by
  rw [onCurve, beq_iff_eq, curveRhs_eq, fmul, sq]

/-- For secp256k1 the coefficient of `x` is 0 (R180). -/
theorem onCurve_curve_iff (x y : Nat) :
    onCurve Config.curve x y = true ↔ y ^ 2 % Config.curve.p = (x ^ 3 + 7) % Config.curve.p := by
  rw [onCurve_iff, show Config.curve.a = 0 from rfl, Nat.zero_mul, Nat.add_zero]
  rfl

theorem generator_valid : (generator Config.curve).valid Config.curve = true := by decide +kernel

/-! ## The commands, end by end -/

section
variable (s : State) (pd : PReg) (v : Point)

theorem isInfinity_eq : isInfinity v = decide (v = .infinity) := by
  cases v <;> rfl

/-- `completePoint` in the words of the obligations. -/
theorem givesPoint_completePoint : GivesPoint s (completePoint pd v s) pd v := by
  have h := completes_completePoint pd v s
  rwa [isInfinity_eq] at h

end

/-! `PSET` (R156) -/

section
variable {s : State} {pd : PReg} {ra rb : Reg}

theorem givesPoint_execPset (hra : s.num ra < Config.curve.p) (hrb : s.num rb < Config.curve.p)
    (hon : onCurve Config.curve (s.num ra) (s.num rb) = true) :
    GivesPoint s (execPset pd ra rb s) pd (.affine (s.reg ra) (s.reg rb)) := by
  rw [execPset, if_pos ((inRange_two ..).mpr ⟨hra, hrb⟩), if_pos hon]
  exact givesPoint_completePoint s pd (.affine _ _)

theorem errs_execPset_of_off_curve (hra : s.num ra < Config.curve.p) (hrb : s.num rb < Config.curve.p)
    (hoff : ¬ onCurve Config.curve (s.num ra) (s.num rb) = true) :
    Errs s (execPset pd ra rb s) .pointNotOnCurve := by
  rw [execPset, if_pos ((inRange_two ..).mpr ⟨hra, hrb⟩), if_neg hoff]
  exact errs_raiseError ..

theorem errs_execPset_of_range (h : Config.curve.p ≤ s.num ra ∨ Config.curve.p ≤ s.num rb) :
    Errs s (execPset pd ra rb s) .operandRange := by
  have hrange : ¬ s.inRange Config.curve.p [ra, rb] = true := not_inRange_two (m := .p) h
  rw [execPset, if_neg hrange]
  exact errs_raiseError ..

end

/-! `PGETX` and `PGETY` (R161, R162) -/

section
variable {s : State} {pa : PReg} (coord : Word256 → Word256 → Word256) (rd : Reg)

theorem isOdd_eq (y : Word256) : isOdd y = decide (y.toNat % 2 = 1) := by
  rw [isOdd, BitVec.getLsbD, Nat.testBit_zero]

theorem completes_readCoordinate {x y : Word256} (h : s.point pa = .affine x y) :
    Completes s (readCoordinate coord rd pa s) fun t => t.reg rd = coord x y ∧ OnlyRegs [rd] s t ∧
      t.flags = { s.flags with odd := decide (y.toNat % 2 = 1) } := by
  simp only [readCoordinate, h, ← isOdd_eq]
  refine completes_complete (sameShell_of_data s _ _ _ _) ⟨setReg_reg_self s rd _, ⟨fun i hi => ?_, rfl, rfl⟩, rfl⟩
  exact setReg_reg_ne s _ (by simpa using hi)

theorem errs_readCoordinate (h : s.point pa = .infinity) :
    Errs s (readCoordinate coord rd pa s) .pointAtInfinity := by
  simp only [readCoordinate, h]
  exact errs_raiseError ..

end

/-! ## The obligations -/

/-- Settles O33: the range check, then the curve equation of `onCurve_curve_iff`. -/
theorem psetResult : Obligations.PsetResult := fun s pd ra rb =>
  have equation := onCurve_curve_iff (s.num ra) (s.num rb)
  ⟨encoded_pset pd ra rb, fun hra hrb hon => givesPoint_execPset hra hrb (equation.mpr hon),
    fun hra hrb hoff => errs_execPset_of_off_curve hra hrb (mt equation.mp hoff), errs_execPset_of_range⟩

/-- Settles O34: three commands are `completePoint` of their point, and `PEQ` writes `EQ` alone. -/
theorem pointMoveResults : Obligations.PointMoveResults := by
  intro s pd pa pb
  exact ⟨encoded_pinf pd, givesPoint_completePoint s pd .infinity, encoded_pmov pd pa,
    givesPoint_completePoint s pd (s.point pa), encoded_pldg pd, givesPoint_completePoint s pd (.affine _ _),
    generator_valid, encoded_peq pa pb, completes_complete (sameShell_of_data s _ _ _ _) ⟨rfl, rfl, rfl, rfl⟩⟩

/-- Settles O36: both commands are `readCoordinate`. -/
theorem coordinateReads : Obligations.CoordinateReads := fun _ rd pa =>
  ⟨encoded_pgetx rd pa, encoded_pgety rd pa,
    fun _ _ h => ⟨completes_readCoordinate (fun x _ => x) rd h, completes_readCoordinate (fun _ y => y) rd h⟩,
    fun h => ⟨errs_readCoordinate (fun x _ => x) rd h, errs_readCoordinate (fun _ y => y) rd h⟩⟩

end Sys2Proof.Machine
end

section
/-! SUPPORT. The curve functions in the field of `p` elements: the functions of R121 to R126 are the field's operations,
and the third point of a chord or a tangent has the coordinates of R152, reduced. -/

namespace Sys2Proof.Machine

/-! ## Reduced numbers in the field -/

theorem p_pos : 0 < Config.curve.p := modulus_pos .p

theorem p_gt_two : 2 < Config.curve.p := modulus_gt_two .p

theorem p_lt : Config.curve.p < 2 ^ 256 := modulus_lt .p

theorem natCast_inj_of_lt {a b : Nat} (ha : a < Config.curve.p) (hb : b < Config.curve.p) :
    (a : ZMod Config.curve.p) = b ↔ a = b := by
  rw [ZMod.natCast_eq_natCast_iff', Nat.mod_eq_of_lt ha, Nat.mod_eq_of_lt hb]

theorem natCast_ne_zero_of_lt {a : Nat} (h0 : a ≠ 0) (ha : a < Config.curve.p) : (a : ZMod Config.curve.p) ≠ 0 := by
  rwa [← Nat.cast_zero, ne_eq, natCast_inj_of_lt ha p_pos]

/-- A residue fits a coordinate. -/
theorem toNat_ofNat_of_lt_p {v : Nat} (hv : v < Config.curve.p) : (BitVec.ofNat 256 v).toNat = v := by
  rw [BitVec.toNat_ofNat, Nat.mod_eq_of_lt (hv.trans p_lt)]

/-! ## The arithmetic functions (R121 to R126) -/

section
variable (a b : Nat)

theorem cast_fadd (m : Nat) : (fadd a b m : ZMod m) = a + b := by
  rw [fadd, ZMod.natCast_mod, Nat.cast_add]

theorem cast_fmul (m : Nat) : (fmul a b m : ZMod m) = a * b := by
  rw [fmul, ZMod.natCast_mod, Nat.cast_mul]

theorem cast_fsub {m : Nat} (hm : 0 < m) : (fsub a b m : ZMod m) = a - b := by
  have h := (ZMod.natCast_eq_natCast_iff' _ _ m).mpr (fsub_add hm a b)
  rw [Nat.cast_add] at h
  exact eq_sub_of_add_eq h

variable [Fact (Nat.Prime Config.curve.p)]

/-- The Fermat power is the field's inverse, also of 0, where both are 0. -/
theorem cast_finv : (finv b Config.curve.p : ZMod Config.curve.p) = (b : ZMod Config.curve.p)⁻¹ := by
  rw [finv_eq p_gt_two p_lt, ZMod.natCast_mod, Nat.cast_pow]
  by_cases hb : (b : ZMod Config.curve.p) = 0
  · rw [hb, inv_zero, zero_pow (by decide)]
  · refine eq_inv_of_mul_eq_one_left ?_
    rw [← pow_succ, show Config.curve.p - 2 + 1 = Config.curve.p - 1 by decide, ZMod.pow_card_sub_one_eq_one hb]

theorem cast_fdiv : (fdiv a b Config.curve.p : ZMod Config.curve.p) = a / b := by
  rw [fdiv, cast_fmul, cast_finv, div_eq_mul_inv]

end

/-! ## The third point and the slopes (R152) -/

/-- The coordinates of the last two lines of cases 5 and 6. -/
theorem thirdPoint_coordinates (sl x1 y1 x2 : Nat) : ∃ x3 y3 : Word256,
    thirdPoint Config.curve sl x1 y1 x2 = .affine x3 y3 ∧ x3.toNat < Config.curve.p ∧ y3.toNat < Config.curve.p ∧
    (x3.toNat : ZMod Config.curve.p) = sl ^ 2 - x1 - x2 ∧
    (y3.toNat : ZMod Config.curve.p) = sl * (x1 - x3.toNat) - y1 := by
  refine ⟨_, _, rfl, ?_⟩
  rw [toNat_ofNat_of_lt_p (fsub_lt p_pos _ _), toNat_ofNat_of_lt_p (fsub_lt p_pos _ _)]
  refine ⟨fsub_lt p_pos _ _, fsub_lt p_pos _ _, ?_, ?_⟩
  · rw [cast_fsub _ _ p_pos, cast_fsub _ _ p_pos, cast_fmul, sq]
  · rw [cast_fsub _ _ p_pos, cast_fmul, cast_fsub _ _ p_pos]

section
variable [Fact (Nat.Prime Config.curve.p)] (x1 y1 x2 y2 : Nat)

theorem cast_tangentSlope : (tangentSlope Config.curve x1 y1 : ZMod Config.curve.p) =
    (3 * x1 ^ 2 + Config.curve.a) / (2 * y1) := by
  rw [tangentSlope, cast_fdiv, cast_fadd, cast_fmul, cast_fmul, cast_fmul, sq, Nat.cast_ofNat, Nat.cast_ofNat]

theorem cast_chordSlope : (chordSlope Config.curve x1 y1 x2 y2 : ZMod Config.curve.p) = (y2 - y1) / (x2 - x1) := by
  rw [chordSlope, cast_fdiv, cast_fsub _ _ p_pos, cast_fsub _ _ p_pos]

end

/-! ## The six cases of `pointAdd` (R152) -/

section
variable (c : Curve) (x y y1 y2 x1 x2 : Word256)

@[simp] theorem pointAdd_infinity_left (q : Point) : pointAdd c .infinity q = q := rfl

@[simp] theorem pointAdd_infinity_right (q : Point) : pointAdd c q .infinity = q := by
  cases q <;> rfl

variable {y1 y2} in
theorem pointAdd_of_y_ne (h : y1 ≠ y2) : pointAdd c (.affine x y1) (.affine x y2) = .infinity := by
  rw [pointAdd, if_pos rfl, if_pos h]

theorem pointAdd_self_of_y_zero : pointAdd c (.affine x 0) (.affine x 0) = .infinity := by
  rw [pointAdd, if_pos rfl, if_neg (not_not.mpr rfl), if_pos rfl]

variable {y} in
theorem pointAdd_self (h : y ≠ 0) : pointAdd c (.affine x y) (.affine x y) =
    thirdPoint c (tangentSlope c x.toNat y.toNat) x.toNat y.toNat x.toNat := by
  rw [pointAdd, if_pos rfl, if_neg (not_not.mpr rfl), if_neg h]

variable {x1 x2} in
theorem pointAdd_of_x_ne (h : x1 ≠ x2) : pointAdd c (.affine x1 y1) (.affine x2 y2) =
    thirdPoint c (chordSlope c x1.toNat y1.toNat x2.toNat y2.toNat) x1.toNat y1.toNat x2.toNat := by
  rw [pointAdd, if_neg h]

end

/-! ## The divisors of the slopes -/

theorem two_mul_ne_zero_of_lt [Fact (Nat.Prime Config.curve.p)] {y : Word256} (h0 : y ≠ 0)
    (hy : y.toNat < Config.curve.p) : 2 * (y.toNat : ZMod Config.curve.p) ≠ 0 :=
  mul_ne_zero (natCast_ne_zero_of_lt two_ne_zero p_gt_two) (natCast_ne_zero_of_lt (BitVec.toNat_ne_iff_ne.mpr h0) hy)

theorem cast_toNat_ne_of_lt {x y : Word256} (h : x ≠ y) (hx : x.toNat < Config.curve.p)
    (hy : y.toNat < Config.curve.p) : (x.toNat : ZMod Config.curve.p) ≠ y.toNat := by
  rwa [ne_eq, natCast_inj_of_lt hx hy, BitVec.toNat_inj]

end Sys2Proof.Machine
end

section
/-! SUPPORT. The stored points as the group of the curve (R150 to R153): a valid point stands for a point of Mathlib's
group, `pointAdd` for the sum and `scalarMul` for the multiple. -/

namespace Sys2Proof.Machine

open WeierstrassCurve.Affine

/-! ## The curve over the field -/

theorem shortCurve_discriminant : shortCurve.Δ ≠ 0 := by
  have h := natCast_ne_zero_of_lt (a := 21168) (by decide) (by decide)
  have hΔ : shortCurve.Δ = -((21168 : Nat) : ZMod Config.curve.p) := by
    simp only [WeierstrassCurve.Δ, WeierstrassCurve.b₂, WeierstrassCurve.b₄, WeierstrassCurve.b₆,
      WeierstrassCurve.b₈, shortCurve, show Config.curve.a = 0 from rfl, show Config.curve.b = 7 from rfl]
    push_cast
    ring
  rw [hΔ]
  exact neg_ne_zero.mpr h

theorem shortCurve_negY (x y : ZMod Config.curve.p) : shortCurve.negY x y = -y := by
  simp [negY, shortCurve]

/-- The curve has no singular point, so the equation is all that a point has to meet. -/
theorem onCurve_iff_nonsingular (x y : Nat) :
    onCurve Config.curve x y = true ↔ shortCurve.Nonsingular (x : ZMod Config.curve.p) y := by
  rw [onCurve_iff, ← ZMod.natCast_eq_natCast_iff', ← equation_iff_nonsingular_of_Δ_ne_zero shortCurve_discriminant,
    equation_iff]
  simp [shortCurve]

theorem valid_affine_iff (x y : Word256) : (Point.affine x y).valid Config.curve = true ↔
    x.toNat < Config.curve.p ∧ y.toNat < Config.curve.p ∧
      shortCurve.Nonsingular (x.toNat : ZMod Config.curve.p) y.toNat := by
  simp only [Point.valid, Bool.and_eq_true, decide_eq_true_eq, onCurve_iff_nonsingular, and_assoc]

/-! ## Valid points and the points they stand for -/

/-- The stored point is valid and stands for `q`. -/
structure StandsFor (pt : Point) (q : shortCurve.Point) : Prop where
  valid : pt.valid Config.curve = true
  represents : Represents pt q

theorem standsFor_infinity_iff {q : shortCurve.Point} : StandsFor .infinity q ↔ q = 0 :=
  ⟨fun h => h.represents, fun h => ⟨rfl, h⟩⟩

theorem standsFor_affine_iff {x y : Word256} {q : shortCurve.Point} : StandsFor (.affine x y) q ↔
    x.toNat < Config.curve.p ∧ y.toNat < Config.curve.p ∧
      ∃ h, q = .some (x.toNat : ZMod Config.curve.p) (y.toNat : ZMod Config.curve.p) h := by
  constructor
  · rintro ⟨valid, represents⟩
    obtain ⟨hx, hy, -⟩ := (valid_affine_iff x y).mp valid
    exact ⟨hx, hy, represents⟩
  · rintro ⟨hx, hy, h, hq⟩
    exact ⟨(valid_affine_iff x y).mpr ⟨hx, hy, h⟩, h, hq⟩

theorem exists_standsFor {pt : Point} (hvalid : pt.valid Config.curve = true) : ∃ q, StandsFor pt q := by
  cases pt with
  | infinity => exact ⟨0, standsFor_infinity_iff.mpr rfl⟩
  | affine x y =>
    obtain ⟨-, -, h⟩ := (valid_affine_iff x y).mp hvalid
    exact ⟨_, hvalid, h, rfl⟩

/-! ## The sum -/

section
variable [Fact (Nat.Prime Config.curve.p)]

section
variable {x1 y1 x2 y2 : Word256}

/-- Where Mathlib's slope is the stored one, the third point stands for the sum. -/
theorem standsFor_thirdPoint {sl : Nat}
    (h1 : shortCurve.Nonsingular (x1.toNat : ZMod Config.curve.p) y1.toNat)
    (h2 : shortCurve.Nonsingular (x2.toNat : ZMod Config.curve.p) y2.toNat)
    (hxy : ¬((x1.toNat : ZMod Config.curve.p) = x2.toNat ∧
      (y1.toNat : ZMod Config.curve.p) = shortCurve.negY x2.toNat y2.toNat))
    (hsl : (sl : ZMod Config.curve.p) = shortCurve.slope x1.toNat x2.toNat y1.toNat y2.toNat) :
    StandsFor (thirdPoint Config.curve sl x1.toNat y1.toNat x2.toNat) (.some _ _ h1 + .some _ _ h2) := by
  obtain ⟨x3, y3, heq, hx3, hy3, hx, hy⟩ := thirdPoint_coordinates sl x1.toNat y1.toNat x2.toNat
  have haddX : (x3.toNat : ZMod Config.curve.p) = shortCurve.addX x1.toNat x2.toNat sl := by
    rw [hx]
    simp [addX, shortCurve]
  have haddY : (y3.toNat : ZMod Config.curve.p) = shortCurve.addY x1.toNat x2.toNat y1.toNat sl := by
    rw [hy, addY, shortCurve_negY, negAddY, ← haddX]
    ring
  have hsum := nonsingular_add h1 h2 hxy
  rw [← hsl, ← haddX, ← haddY] at hsum
  rw [heq, standsFor_affine_iff, Point.add_some hxy]
  refine ⟨hx3, hy3, hsum, ?_⟩
  simp only [haddX, haddY, hsl]

/-- The tangent's slope is Mathlib's slope at a point that is not its own negative. -/
theorem tangentSlope_eq_slope
    (hy : (y1.toNat : ZMod Config.curve.p) ≠ shortCurve.negY x1.toNat y1.toNat) :
    (tangentSlope Config.curve x1.toNat y1.toNat : ZMod Config.curve.p) =
      shortCurve.slope x1.toNat x1.toNat y1.toNat y1.toNat := by
  rw [slope_of_Y_ne rfl hy, cast_tangentSlope, shortCurve_negY, sub_neg_eq_add, ← two_mul]
  simp [shortCurve]

theorem chordSlope_eq_slope (hx : (x1.toNat : ZMod Config.curve.p) ≠ x2.toNat) :
    (chordSlope Config.curve x1.toNat y1.toNat x2.toNat y2.toNat : ZMod Config.curve.p) =
      shortCurve.slope x1.toNat x2.toNat y1.toNat y2.toNat := by
  rw [slope_of_X_ne hx, cast_chordSlope, ← neg_div_neg_eq, neg_sub, neg_sub]

end

/-- `pointAdd` stands for the sum, case by case of R152. -/
theorem standsFor_pointAdd {p1 p2 : Point} {q1 q2 : shortCurve.Point} (hp1 : StandsFor p1 q1) (hp2 : StandsFor p2 q2) :
    StandsFor (pointAdd Config.curve p1 p2) (q1 + q2) := by
  match p1, p2 with
  | .infinity, p2 =>
    obtain rfl := standsFor_infinity_iff.mp hp1
    rwa [pointAdd_infinity_left, zero_add]
  | p1, .infinity =>
    obtain rfl := standsFor_infinity_iff.mp hp2
    rwa [pointAdd_infinity_right, add_zero]
  | .affine x1 y1, .affine x2 y2 =>
    obtain ⟨hx1, hy1, h1, rfl⟩ := standsFor_affine_iff.mp hp1
    obtain ⟨hx2, hy2, h2, rfl⟩ := standsFor_affine_iff.mp hp2
    by_cases hx : x1 = x2
    · subst hx
      by_cases hy : y1 = y2
      · subst hy
        by_cases h0 : y1 = 0
        · subst h0
          have hneg : ((0 : Word256).toNat : ZMod Config.curve.p) = shortCurve.negY x1.toNat (0 : Word256).toNat := by
            rw [shortCurve_negY]
            simp
          rw [pointAdd_self_of_y_zero, standsFor_infinity_iff, Point.add_self_of_Y_eq hneg]
        · have hneg : (y1.toNat : ZMod Config.curve.p) ≠ shortCurve.negY x1.toNat y1.toNat := by
            rw [shortCurve_negY, ne_eq, eq_neg_iff_add_eq_zero, ← two_mul]
            exact two_mul_ne_zero_of_lt h0 hy1
          rw [pointAdd_self _ _ h0]
          exact standsFor_thirdPoint h1 h2 (fun h => hneg h.right) (tangentSlope_eq_slope hneg)
      · have hneg := (Y_eq_of_X_eq h1.left h2.left rfl).resolve_left (cast_toNat_ne_of_lt hy hy1 hy2)
        rw [pointAdd_of_y_ne _ _ hy, standsFor_infinity_iff, Point.add_of_Y_eq rfl hneg]
    · have hne := cast_toNat_ne_of_lt hx hx1 hx2
      rw [pointAdd_of_x_ne _ _ _ hx]
      exact standsFor_thirdPoint h1 h2 (fun h => hne h.left) (chordSlope_eq_slope hne)

/-! ## The multiple -/

/-- The loop adds the multiple of its current point by the bits that are left (R153). -/
theorem standsFor_mulLoop {bits k : Nat} {result current : Point} {qr qc : shortCurve.Point} (hk : k < 2 ^ bits)
    (hr : StandsFor result qr) (hc : StandsFor current qc) :
    StandsFor (mulLoop Config.curve bits k result current) (qr + k • qc) := by
  induction bits generalizing k result current qr qc with
  | zero =>
    obtain rfl : k = 0 := by omega
    rwa [zero_nsmul, add_zero]
  | succ bits ih =>
    have hbit : StandsFor (if k % 2 = 1 then pointAdd Config.curve result current else result)
        (qr + (k % 2) • qc) := by
      split
      · next h => simpa [h] using standsFor_pointAdd hr hc
      · next h => simpa [show k % 2 = 0 by omega] using hr
    have hsplit : qr + k • qc = qr + (k % 2) • qc + (k / 2) • (qc + qc) := by
      rw [← two_nsmul, ← mul_nsmul, add_assoc, ← add_nsmul, Nat.mod_add_div]
    rw [hsplit]
    exact ih (by omega) hbit (standsFor_pointAdd hc hc)

theorem standsFor_scalarMul {k : Nat} {pt : Point} {q : shortCurve.Point} (hk : k < 2 ^ 256) (h : StandsFor pt q) :
    StandsFor (scalarMul Config.curve k pt) (k • q) := by
  rw [← zero_add (k • q)]
  exact standsFor_mulLoop hk (standsFor_infinity_iff.mpr rfl) h

end

theorem valid_pointAdd {p1 p2 : Point} (h1 : p1.valid Config.curve = true) (h2 : p2.valid Config.curve = true) :
    (pointAdd Config.curve p1 p2).valid Config.curve = true := by
  have : Fact (Nat.Prime Config.curve.p) := ⟨p_prime⟩
  obtain ⟨q1, hq1⟩ := exists_standsFor h1
  obtain ⟨q2, hq2⟩ := exists_standsFor h2
  exact (standsFor_pointAdd hq1 hq2).valid

end Sys2Proof.Machine
end

section
/-! SUPPORT. The loop of R153 as a fold over the bits of the scalar, and the order of the generator (R164). -/

namespace Sys2Proof.Machine

/-! ## The double-and-add loop (R153) -/

/-- The turn of the loop for bit `i` of `k`, on the pair of the result and the current point. -/
def doubleAndAddTurn (c : Curve) (k : Nat) (rc : Point × Point) (i : Nat) : Point × Point :=
  (if k.testBit i then pointAdd c rc.1 rc.2 else rc.1, pointAdd c rc.2 rc.2)

theorem mulLoop_succ (c : Curve) (bits k : Nat) (result current : Point) :
    mulLoop c (bits + 1) k result current =
      mulLoop c bits (k / 2) (if k % 2 = 1 then pointAdd c result current else result)
        (pointAdd c current current) := rfl

/-- The loop folds its turn over the bits, least significant first. -/
theorem mulLoop_eq_foldl (c : Curve) (bits k : Nat) (result current : Point) : mulLoop c bits k result current =
    ((List.range bits).foldl (doubleAndAddTurn c k) (result, current)).1 := by
  induction bits generalizing k result current with
  | zero => rfl
  | succ bits ih =>
    have hturn : (fun rc i => doubleAndAddTurn c k rc (i + 1)) = doubleAndAddTurn c (k / 2) := by
      funext rc i
      rw [doubleAndAddTurn, Nat.testBit_succ, doubleAndAddTurn]
    have hfirst : doubleAndAddTurn c k (result, current) 0 =
        (if k % 2 = 1 then pointAdd c result current else result, pointAdd c current current) := by
      simp [doubleAndAddTurn]
    rw [mulLoop_succ, ih, List.range_succ_eq_map, List.foldl_cons, List.foldl_map, hturn, hfirst]

/-- Without bits left the loop only doubles its current point. -/
theorem mulLoop_zero_scalar (c : Curve) (bits : Nat) (result current : Point) :
    mulLoop c bits 0 result current = result := by
  induction bits generalizing current with
  | zero => rfl
  | succ bits ih => exact ih _

/-- The loop may stop after any number of bits that holds the scalar. -/
theorem mulLoop_of_lt (c : Curve) {bits total k : Nat} (hle : bits ≤ total) (hk : k < 2 ^ bits)
    (result current : Point) : mulLoop c total k result current = mulLoop c bits k result current := by
  induction bits generalizing total k result current with
  | zero =>
    obtain rfl : k = 0 := by omega
    exact mulLoop_zero_scalar ..
  | succ bits ih =>
    obtain ⟨total, rfl⟩ : ∃ n, total = n + 1 := ⟨total - 1, by omega⟩
    rw [mulLoop_succ, mulLoop_succ, ih (by omega) (by omega)]

theorem mulLoop_infinity (c : Curve) (bits k : Nat) : mulLoop c bits k .infinity .infinity = .infinity := by
  induction bits generalizing k with
  | zero => rfl
  | succ bits ih => rw [mulLoop_succ, pointAdd_infinity_left, ite_self, ih]

/-! ## The order of the generator (R164) -/

/-- The 256 turns of the loop for `n` and `G`, evaluated. -/
theorem scalarMul_n_generator : scalarMul Config.curve Config.curve.n (generator Config.curve) = .infinity := by
  decide +kernel

theorem n_lt : Config.curve.n < 2 ^ 256 := modulus_lt .n

/-- The group's point of `G` is not 0 and `n` times it is, and `n` is prime. -/
theorem addOrderOf_eq_n [Fact (Nat.Prime Config.curve.p)] {g : shortCurve.Point}
    (hg : StandsFor (generator Config.curve) g) : addOrderOf g = Config.curve.n := by
  have : Fact (Nat.Prime Config.curve.n) := ⟨n_prime⟩
  have hmul := standsFor_scalarMul n_lt hg
  rw [scalarMul_n_generator, standsFor_infinity_iff] at hmul
  refine addOrderOf_eq_prime hmul ?_
  obtain ⟨-, -, h, rfl⟩ := standsFor_affine_iff.mp hg
  exact WeierstrassCurve.Affine.Point.some_ne_zero h

theorem scalarMul_generator_ne_infinity {k : Nat} (h0 : 0 < k) (hk : k < Config.curve.n) :
    scalarMul Config.curve k (generator Config.curve) ≠ .infinity := by
  have : Fact (Nat.Prime Config.curve.p) := ⟨p_prime⟩
  obtain ⟨g, hg⟩ := exists_standsFor generator_valid
  have hmul := standsFor_scalarMul (hk.trans n_lt) hg
  intro heq
  rw [heq, standsFor_infinity_iff, ← addOrderOf_dvd_iff_nsmul_eq_zero, addOrderOf_eq_n hg] at hmul
  exact Nat.not_dvd_of_pos_of_lt h0 hk hmul

/-! ## The obligations -/

/-- Settles O27: the first four cases are `pointAdd`'s own; in the last two the slope is the quotient of
`cast_tangentSlope` or `cast_chordSlope`, whose divisor is not 0. -/
theorem groupLawCases : Obligations.GroupLawCases := by
  have : Fact (Nat.Prime Config.curve.p) := ⟨p_prime⟩
  refine ⟨fun q => ⟨pointAdd_infinity_left _ q, pointAdd_infinity_right _ q⟩, fun x y1 y2 h => pointAdd_of_y_ne _ x h,
    pointAdd_self_of_y_zero _, fun x1 y1 x2 y2 h1 h2 => ?_⟩
  obtain ⟨hx1, hy1, -⟩ := (valid_affine_iff x1 y1).mp h1
  obtain ⟨hx2, -, -⟩ := (valid_affine_iff x2 y2).mp h2
  refine ⟨?_, fun hne => ?_⟩
  · rintro rfl rfl h0
    have hdiv := two_mul_ne_zero_of_lt h0 hy1
    obtain ⟨x3, y3, heq, hx3, hy3, hx, hy⟩ := thirdPoint_coordinates
      (tangentSlope Config.curve x1.toNat y1.toNat) x1.toNat y1.toNat x1.toNat
    refine ⟨x3, y3, _, (pointAdd_self _ _ h0).trans heq, hx3, hy3, hdiv.isUnit, ?_, ?_, hy⟩
    · rw [cast_tangentSlope, div_mul_cancel₀ _ hdiv]
    · rw [hx]
      ring
  · have hdiv := sub_ne_zero.mpr (cast_toNat_ne_of_lt hne.symm hx2 hx1)
    obtain ⟨x3, y3, heq, hx3, hy3, hx, hy⟩ := thirdPoint_coordinates
      (chordSlope Config.curve x1.toNat y1.toNat x2.toNat y2.toNat) x1.toNat y1.toNat x2.toNat
    refine ⟨x3, y3, _, (pointAdd_of_x_ne _ _ _ hne).trans heq, hx3, hy3, hdiv.isUnit, ?_, hx, hy⟩
    rw [cast_chordSlope, div_mul_cancel₀ _ hdiv]

/-- Settles O28, from `mulLoop_eq_foldl` (the loop is the fold) and `mulLoop_of_lt` (it may stop early). -/
theorem scalarMulIsDoubleAndAdd : Obligations.ScalarMulIsDoubleAndAdd := fun k pt _ =>
  ⟨mulLoop_eq_foldl Config.curve 256 k .infinity pt,
    fun bits hbits hlt => (mulLoop_of_lt _ hbits hlt ..).trans (mulLoop_eq_foldl Config.curve bits k .infinity pt),
    mulLoop_zero_scalar .., mulLoop_infinity ..⟩

/-- Settles O32: `scalarMul` stands for the multiple in the curve's group, where `G` has the prime order `n`. -/
theorem generatorHasOrderN : Obligations.GeneratorHasOrderN :=
  have : Fact (Nat.Prime Config.curve.p) := ⟨p_prime⟩
  ⟨scalarMul_n_generator, fun _ => scalarMul_generator_ne_infinity, fun _ _ => valid_pointAdd⟩

end Sys2Proof.Machine
end

section
/-! SUPPORT. Square roots modulo `p` (R182) and `PDEC` (R183): a number below `p` has at most two roots, whose parities
differ, `β = α^((p+1)/4)` is one of them when there is any, and no point of the curve has `y = 0`. -/

namespace Sys2Proof.Machine

/-! ## Square roots modulo `p` (R182) -/

theorem p_odd : Config.curve.p % 2 = 1 := modulus_odd .p

/-- `onCurve` as an equation of the field. -/
theorem onCurve_iff_cast (x y : Nat) :
    onCurve Config.curve x y = true ↔ (y : ZMod Config.curve.p) ^ 2 = ((x ^ 3 + 7 : Nat) : ZMod Config.curve.p) := by
  rw [onCurve_curve_iff, ← ZMod.natCast_eq_natCast_iff', Nat.cast_pow]

/-- The right side of the curve equation, for secp256k1 (R180). -/
theorem cast_curveRhs (x : Nat) :
    (curveRhs Config.curve x : ZMod Config.curve.p) = ((x ^ 3 + 7 : Nat) : ZMod Config.curve.p) := by
  rw [curveRhs_eq, ZMod.natCast_mod, show Config.curve.a = 0 from rfl, Nat.zero_mul, Nat.add_zero]
  rfl

theorem fpow_p_eq (a : Nat) {e : Nat} (he : e < 2 ^ 256) : fpow a e false Config.curve.p = a ^ e % Config.curve.p :=
  fpow_eq false he p_gt_two p_lt

theorem rootOfParity_lt (alpha : Nat) (odd : Bool) : rootOfParity Config.curve alpha odd < Config.curve.p := by
  rw [rootOfParity, fpow_p_eq _ (by decide)]
  split
  · exact Nat.mod_lt _ p_pos
  · exact fsub_lt p_pos ..

section
variable [Fact (Nat.Prime Config.curve.p)] {alpha x y z : Nat}

/-- Two residues with the same square are equal or negatives of each other. -/
theorem eq_or_add_eq_p_of_sq_eq (hy : y < Config.curve.p) (hz : z < Config.curve.p)
    (h : (y : ZMod Config.curve.p) ^ 2 = (z : ZMod Config.curve.p) ^ 2) : y = z ∨ y + z = Config.curve.p := by
  rcases sq_eq_sq_iff_eq_or_eq_neg.mp h with heq | hneg
  · exact .inl ((natCast_inj_of_lt hy hz).mp heq)
  · have hdvd : Config.curve.p ∣ y + z := by
      rw [← ZMod.natCast_eq_zero_iff, Nat.cast_add, hneg, neg_add_cancel]
    obtain ⟨k, hk⟩ := hdvd
    have hk2 : k < 2 := Nat.lt_of_mul_lt_mul_left (hk ▸ (by omega : y + z < Config.curve.p * 2))
    interval_cases k <;> omega

/-- By Fermat, `β = α^((p+1)/4)` squares to `α` when `α` is a square. -/
theorem cast_candidate_sq (h : (y : ZMod Config.curve.p) ^ 2 = alpha) :
    ((alpha ^ ((Config.curve.p + 1) / 4) % Config.curve.p : Nat) : ZMod Config.curve.p) ^ 2 = alpha := by
  rw [ZMod.natCast_mod, Nat.cast_pow, ← h, ← pow_mul, ← pow_mul,
    show 2 * ((Config.curve.p + 1) / 4 * 2) = Config.curve.p + 1 by decide, pow_succ, ZMod.pow_card, sq]

theorem eq_candidate_or_add_eq_p (hy : y < Config.curve.p) (h : (y : ZMod Config.curve.p) ^ 2 = alpha) :
    y = alpha ^ ((Config.curve.p + 1) / 4) % Config.curve.p ∨
      y + alpha ^ ((Config.curve.p + 1) / 4) % Config.curve.p = Config.curve.p :=
  eq_or_add_eq_p_of_sq_eq hy (Nat.mod_lt _ p_pos) (h.trans (cast_candidate_sq h).symm)

/-- The two roots have different parities, so the model's choice is the root with the requested one. -/
theorem rootOfParity_eq_of_sq_eq (hy : y < Config.curve.p) (h : (y : ZMod Config.curve.p) ^ 2 = alpha) :
    rootOfParity Config.curve alpha (decide (y % 2 = 1)) = y := by
  have hodd := p_odd
  have hroots := eq_candidate_or_add_eq_p hy h
  have hbeta : alpha ^ ((Config.curve.p + 1) / 4) % Config.curve.p < Config.curve.p := Nat.mod_lt _ p_pos
  rw [rootOfParity, fpow_p_eq _ (by decide)]
  generalize alpha ^ ((Config.curve.p + 1) / 4) % Config.curve.p = beta at hroots hbeta
  simp only [decide_eq_decide]
  split
  · omega
  · rw [fsub_eq p_pos hbeta]
    split <;> omega

/-- `−7` is no cube modulo `p`: its power by `(p − 1) / 3` is not 1. -/
theorem cube_add_seven_ne_zero (x : Nat) : ((x ^ 3 + 7 : Nat) : ZMod Config.curve.p) ≠ 0 := by
  intro h
  have hcube : ((Config.curve.p - 7 : Nat) : ZMod Config.curve.p) = (x : ZMod Config.curve.p) ^ 3 := by
    rw [Nat.cast_sub (by decide), CharP.cast_eq_zero, zero_sub, ← Nat.cast_pow, neg_eq_iff_add_eq_zero, add_comm]
    exact_mod_cast h
  have hx : (x : ZMod Config.curve.p) ≠ 0 := fun h0 => by
    rw [h0, zero_pow three_ne_zero] at hcube
    exact natCast_ne_zero_of_lt (by decide) (by decide) hcube
  have hone : (((Config.curve.p - 7) ^ ((Config.curve.p - 1) / 3) : Nat) : ZMod Config.curve.p) = (1 : Nat) := by
    rw [Nat.cast_pow, hcube, ← pow_mul, show 3 * ((Config.curve.p - 1) / 3) = Config.curve.p - 1 by decide,
      ZMod.pow_card_sub_one_eq_one hx, Nat.cast_one]
  have hpow : fpow (Config.curve.p - 7) ((Config.curve.p - 1) / 3) false Config.curve.p ≠ 1 := by decide +kernel
  rw [fpow_p_eq _ (by decide)] at hpow
  exact hpow (((ZMod.natCast_eq_natCast_iff' ..).mp hone).trans (Nat.mod_eq_of_lt (by decide)))

/-- No point of the curve has `y = 0`. -/
theorem ne_zero_of_onCurve (h : onCurve Config.curve x y = true) : y ≠ 0 := by
  rintro rfl
  rw [onCurve_iff_cast, Nat.cast_zero, zero_pow two_ne_zero] at h
  exact cube_add_seven_ne_zero x h.symm

theorem onCurve_p_sub (hy : y < Config.curve.p) (h : onCurve Config.curve x y = true) :
    onCurve Config.curve x (Config.curve.p - y) = true := by
  rwa [onCurve_iff_cast, Nat.cast_sub hy.le, CharP.cast_eq_zero, zero_sub, neg_sq, ← onCurve_iff_cast]

/-- Where the curve has a point, it has one of each parity: negation changes the parity of `y`. -/
theorem exists_onCurve_of_parity (odd : Bool) (hy : y < Config.curve.p) (h : onCurve Config.curve x y = true) :
    ∃ z < Config.curve.p, decide (z % 2 = 1) = odd ∧ onCurve Config.curve x z = true := by
  have h0 := ne_zero_of_onCurve h
  by_cases hparity : decide (y % 2 = 1) = odd
  · exact ⟨y, hy, hparity, h⟩
  · refine ⟨Config.curve.p - y, by omega, ?_, onCurve_p_sub hy h⟩
    have hflip : decide ((Config.curve.p - y) % 2 = 1) = !decide (y % 2 = 1) := by
      have := p_odd
      rw [← decide_not, decide_eq_decide]
      omega
    rw [hflip, Bool.not_eq.mpr hparity]

/-! ## Decompression (R182) -/

theorem decompress_of_onCurve (hy : y < Config.curve.p) (h : onCurve Config.curve x y = true) :
    decompress Config.curve x (decide (y % 2 = 1)) = some (affineNat x y) := by
  have hroot := rootOfParity_eq_of_sq_eq hy (((onCurve_iff_cast x y).mp h).trans (cast_curveRhs x).symm)
  simp only [decompress, hroot, h, if_true]

end

theorem decompress_of_no_root {x : Nat} (odd : Bool)
    (h : ∀ y < Config.curve.p, onCurve Config.curve x y ≠ true) : decompress Config.curve x odd = none := by
  have hoff := h _ (rootOfParity_lt (curveRhs Config.curve x) odd)
  simp only [decompress, if_neg hoff]

/-! ## The command (R183) -/

theorem encoded_pdec (odd : Bool) (pd : PReg) (ra : Reg) :
    Encoded (.pdec odd pd ra) (formatR 0x29 odd false pd.bits ra.bits 0 0) :=
  encoded_formatR (r := opFields[21]) (row := rows[23]) rfl rfl (by simp [rows, systemRows, fieldRows, pointRows])
    (by simp [opFields, FieldUse.bad])

section
variable {s : State} {odd : Bool} {pd : PReg} {ra : Reg}

/-- The engine's arm for `PDEC` (R302). -/
theorem exec_pdec : exec (.pdec odd pd ra) s = execPdec odd pd ra s := rfl

theorem givesPoint_execPdec [Fact (Nat.Prime Config.curve.p)] {y : Nat} (hra : s.num ra < Config.curve.p)
    (hy : y < Config.curve.p) (hodd : decide (y % 2 = 1) = odd) (hon : onCurve Config.curve (s.num ra) y = true) :
    GivesPoint s (execPdec odd pd ra s) pd (.affine (s.reg ra) (BitVec.ofNat 256 y)) := by
  subst hodd
  rw [execPdec, if_pos ((inRange_one ..).mpr hra), decompress_of_onCurve hy hon, affineNat, reg_ofNat_num]
  exact givesPoint_completePoint s pd (.affine _ _)

theorem errs_execPdec_of_no_root (hra : s.num ra < Config.curve.p)
    (h : ∀ y < Config.curve.p, onCurve Config.curve (s.num ra) y ≠ true) :
    Errs s (execPdec odd pd ra s) .pointNotOnCurve := by
  rw [execPdec, if_pos ((inRange_one ..).mpr hra), decompress_of_no_root odd h]
  exact errs_raiseError ..

theorem errs_execPdec_of_range (h : Config.curve.p ≤ s.num ra) : Errs s (execPdec odd pd ra s) .operandRange := by
  rw [execPdec, if_neg (mt (inRange_one ..).mp h.not_gt)]
  exact errs_raiseError ..

end

/-! ## The obligation -/

/-- Settles O37: `decompress_of_onCurve` and `decompress_of_no_root`, with Fermat for the candidate root and
`exists_onCurve_of_parity` for the other parity. -/
theorem decompressionFindsThePoint : Obligations.DecompressionFindsThePoint := by
  intro s odd pd ra
  have : Fact (Nat.Prime Config.curve.p) := ⟨p_prime⟩
  simp only [ne_eq, ← onCurve_curve_iff, exec_pdec]
  refine ⟨encoded_pdec odd pd ra, fun y hra hy hodd hon => ⟨givesPoint_execPdec hra hy hodd hon, _, rfl, ?_⟩,
    errs_execPdec_of_no_root, fun ⟨y, hy, hon⟩ => exists_onCurve_of_parity odd hy hon, errs_execPdec_of_range⟩
  exact (eq_candidate_or_add_eq_p hy ((onCurve_iff_cast ..).mp hon)).imp_right Nat.eq_sub_of_add_eq

end Sys2Proof.Machine
end

section
/-! SUPPORT. A point taken apart and built again (R185): by commands, where `PEQ` compares the rebuilt point with the
source, and by the host's SEC byte strings (R271, R272), where `INT` inverts `BE32` (R14). -/

namespace Sys2Proof.Machine

/-! ## Big-endian integers (R14) -/

@[simp] theorem be32_length (v : Word256) : (be32 v).length = 32 := by
  simp [be32]

/-- `INT` of the first `k` bytes of `BE32(v)` is the upper `8k` bits of `v`. -/
theorem intOf_be32_prefix (v : Word256) {k : Nat} (hk : k ≤ 32) :
    intOf ((List.range k).map fun t => v.extractLsb' (248 - 8 * t) 8) = v.toNat / 2 ^ (256 - 8 * k) := by
  induction k with
  | zero => exact (Nat.div_eq_of_lt v.isLt).symm
  | succ k ih =>
    have hshift : 256 - 8 * k = 248 - 8 * k + 8 := by omega
    have hlast : 256 - 8 * (k + 1) = 248 - 8 * k := by omega
    have hprefix := ih (by omega)
    rw [intOf] at hprefix ⊢
    rw [List.range_succ, List.map_append, List.foldl_append, hprefix, hlast, hshift, pow_add,
      ← Nat.div_div_eq_div_mul]
    simp only [List.map_cons, List.map_nil, List.foldl_cons, List.foldl_nil, BitVec.extractLsb'_toNat,
      Nat.shiftRight_eq_div_pow]
    omega

@[simp] theorem intOf_be32 (v : Word256) : intOf (be32 v) = v.toNat :=
  (intOf_be32_prefix v le_rfl).trans (Nat.div_one _)

/-! ## The SEC byte strings (R271, R272) -/

section
variable (c : Curve) {body : Bytes}

theorem parseSec_uncompressed (h : body.length = 64) :
    parseSec c (0x04 :: body) = pointOfPair c (intOf (body.take 32)) (intOf (body.drop 32)) :=
  if_pos ⟨h, rfl⟩

theorem parseSec_compressed (odd : Bool) (h : body.length = 32) :
    parseSec c ((if odd then 0x03 else 0x02) :: body) = pointOfX c (intOf body) odd := by
  cases odd <;> simp [parseSec, h]

end

section
variable {x y : Word256} (h : (Point.affine x y).valid Config.curve = true)
include h

theorem coordinates_of_valid :
    x.toNat < Config.curve.p ∧ y.toNat < Config.curve.p ∧ onCurve Config.curve x.toNat y.toNat = true := by
  simpa [Point.valid, and_assoc] using h

theorem parseSec_compressedSec :
    parseSec Config.curve ((if y.getLsbD 0 then 0x03 else 0x02) :: be32 x) = some (.affine x y) := by
  have : Fact (Nat.Prime Config.curve.p) := ⟨p_prime⟩
  obtain ⟨hx, hy, hon⟩ := coordinates_of_valid h
  have hodd : y.getLsbD 0 = decide (y.toNat % 2 = 1) := isOdd_eq y
  rw [parseSec_compressed _ _ (be32_length x), intOf_be32, pointOfX, if_pos hx, hodd, decompress_of_onCurve hy hon]
  simp [affineNat]

theorem parseSec_uncompressedSec : parseSec Config.curve (0x04 :: (be32 x ++ be32 y)) = some (.affine x y) := by
  rw [parseSec_uncompressed _ (by simp), List.take_left' (be32_length x), List.drop_left' (be32_length x), intOf_be32,
    intOf_be32, pointOfPair, if_pos (coordinates_of_valid h)]
  simp [affineNat]

end

/-! ## The command sequences (R185) -/

theorem exec_peq_of_point_eq {s : State} {pa pb : PReg} (h : s.point pa = s.point pb) :
    ∃ w, exec (.peq pa pb) s = .next w ∧ w.flags.eq = true :=
  ⟨_, rfl, beq_iff_eq.mpr h⟩

/-- After a command that puts into `pb` the point that `pa` holds, `PEQ` finds the two equal. -/
theorem exec_peq_of_givesPoint {s : State} {o : Result} {pa pb : PReg} {v : Point} (h : GivesPoint s o pb v)
    (hpa : s.point pa = v) :
    ∃ u w, o = .next u ∧ exec (.peq pa pb) u = .next w ∧ u.err = s.err ∧ w.flags.eq = true := by
  obtain ⟨u, hu, hsucc, hpb, honly, -⟩ := h
  have hsame : u.point pa = u.point pb := by
    by_cases hne : pa = pb
    · rw [hne]
    · rw [honly.others pa hne, hpa, hpb]
  obtain ⟨w, hw, heq⟩ := exec_peq_of_point_eq hsame
  exact ⟨u, w, hu, hw, hsucc.err, heq⟩

section
variable {s : State} {pa : PReg} (pb : PReg) (r1 : Reg) {x y : Word256} (hpa : s.point pa = .affine x y)
  (hvalid : (Point.affine x y).valid Config.curve = true)
include hpa hvalid

/-- `PGETX` gives `x` and the parity of `y`, from which `PDEC` finds the point. -/
theorem compressed_commands_rebuild :
    ∃ t u w, exec (.pgetx r1 pa) s = .next t ∧ exec (.pdec t.flags.odd pb r1) t = .next u ∧
      exec (.peq pa pb) u = .next w ∧ u.err = s.err ∧ w.flags.eq = true := by
  have : Fact (Nat.Prime Config.curve.p) := ⟨p_prime⟩
  obtain ⟨hx, hy, hon⟩ := coordinates_of_valid hvalid
  obtain ⟨t, ht, hsucc, hreg, honly, hflags⟩ := completes_readCoordinate (fun x _ => x) r1 hpa
  have hnum : t.num r1 = x.toNat := congrArg BitVec.toNat hreg
  have hpdec := givesPoint_execPdec (s := t) (odd := t.flags.odd) (pd := pb) (ra := r1) (hnum ▸ hx) hy
    (by rw [hflags]) (hnum ▸ hon)
  rw [hreg, BitVec.ofNat_toNat, BitVec.setWidth_eq] at hpdec
  obtain ⟨u, w, hu, hw, herr, heq⟩ := exec_peq_of_givesPoint hpdec ((point_congr honly.points pa).trans hpa)
  exact ⟨t, u, w, ht, exec_pdec.trans hu, hw, herr.trans hsucc.err, heq⟩

/-- `PGETX` and `PGETY` into two registers give both coordinates, from which `PSET` makes the point. -/
theorem uncompressed_commands_rebuild {r2 : Reg} (hne : r1 ≠ r2) :
    ∃ t t' u w, exec (.pgetx r1 pa) s = .next t ∧ exec (.pgety r2 pa) t = .next t' ∧
      exec (.pset pb r1 r2) t' = .next u ∧ exec (.peq pa pb) u = .next w ∧ u.err = s.err ∧ w.flags.eq = true := by
  obtain ⟨hx, hy, hon⟩ := coordinates_of_valid hvalid
  obtain ⟨t, ht, hsucc, hreg, honly, -⟩ := completes_readCoordinate (fun x _ => x) r1 hpa
  have hpa1 := (point_congr honly.points pa).trans hpa
  obtain ⟨t', ht', hsucc', hreg2, honly', -⟩ := completes_readCoordinate (fun _ y => y) r2 hpa1
  have hpa2 := (point_congr honly'.points pa).trans hpa1
  have hreg1 : t'.reg r1 = x := (honly'.others r1 (by simpa using hne)).trans hreg
  have hnum1 : t'.num r1 = x.toNat := congrArg BitVec.toNat hreg1
  have hnum2 : t'.num r2 = y.toNat := congrArg BitVec.toNat hreg2
  have hpset := givesPoint_execPset (s := t') (pd := pb) (hnum1 ▸ hx) (hnum2 ▸ hy) (by rwa [hnum1, hnum2])
  rw [hreg1, hreg2] at hpset
  obtain ⟨u, w, hu, hw, herr, heq⟩ := exec_peq_of_givesPoint hpset hpa2
  exact ⟨t, t', u, w, ht, ht', hu, hw, (herr.trans hsucc'.err).trans hsucc.err, heq⟩

end

/-! ## The obligation -/

/-- Settles O38: by commands, `PEQ` after a command that rebuilds the point; by byte strings, `intOf_be32`. -/
theorem secRoundTrip : Obligations.SecRoundTrip := by
  intro s pa pb r1 r2 x y hpa hvalid
  rw [hpa] at hvalid ⊢
  exact ⟨compressed_commands_rebuild pb r1 hpa hvalid, uncompressed_commands_rebuild pb r1 hpa hvalid,
    ⟨_, rfl, by simp, parseSec_compressedSec hvalid⟩, ⟨_, rfl, by simp, parseSec_uncompressedSec hvalid⟩⟩

end Sys2Proof.Machine
end

section
/-! SUPPORT. The key slot and `VERIFY`: the words of `KEYLOAD KEYPUB KEYCLR VERIFY` (R96), what a key command does with
its check met or not (R221 to R223), and which signatures `ecdsa_verify` accepts (R227, R228). -/

namespace Sys2Proof.Machine

/-! ## The words of the commands (R96) -/

@[simp] theorem fieldD_formatR (op : BitVec 8) (f mbit : Bool) (a b c : BitVec 4) (r : Reg) :
    fieldD (formatR op f mbit a b c r.bits) = r := regAt_bits (formatR_fieldD ..)

section
variable (pd pa : PReg) (ra rb rc : Reg)

theorem encoded_keyload : Encoded (.keyload ra) (formatR 0x30 false false 0 ra.bits 0 0) :=
  encoded_formatR (r := opFields[22]) (row := rows[24]) rfl rfl
    (by simp [rows, systemRows, fieldRows, pointRows, ecdsaRows]) (by simp [opFields, FieldUse.bad])

theorem encoded_keypub : Encoded (.keypub pd) (formatR 0x31 false false pd.bits 0 0 0) :=
  encoded_formatR (r := opFields[23]) (row := rows[25]) rfl rfl
    (by simp [rows, systemRows, fieldRows, pointRows, ecdsaRows]) (by simp [opFields, FieldUse.bad])

theorem encoded_keyclr : Encoded .keyclr (formatR 0x32 false false 0 0 0 0) :=
  encoded_formatR (r := opFields[24]) (row := rows[26]) rfl rfl rfl (by simp [opFields, FieldUse.bad])

theorem encoded_verify : Encoded (.verify pa ra rb rc) (formatR 0x35 false false pa.bits ra.bits rb.bits rc.bits) :=
  encoded_formatR (r := opFields[27]) (row := rows[29]) rfl rfl
    (by simp [rows, systemRows, fieldRows, pointRows, ecdsaRows]) (by simp [opFields, FieldUse.bad])

end

/-! ## The key slot (R221 to R223) -/

theorem keyOf_pub (c : Curve) (d : Word256) : (keyOf c d).pub = scalarMul c d.toNat (generator c) := by
  rw [keyOf]

section
variable {s : State} {ra : Reg} {pd : PReg}

theorem completes_execKeyload (h0 : 0 < s.num ra) (hn : s.num ra < Config.curve.n) :
    Completes s (execKeyload ra s) fun t => t.key.secret = s.reg ra ∧
      t.key.pub = scalarMul Config.curve (s.num ra) (generator Config.curve) ∧ t.key.valid = true ∧
      t.regs = s.regs ∧ t.points = s.points ∧ t.flags = s.flags := by
  rw [execKeyload, if_neg (by omega)]
  exact completes_complete (sameShell_of_data s _ _ _ _)
    ⟨rfl, keyOf_pub Config.curve (s.reg ra), rfl, rfl, rfl, rfl⟩

theorem errs_execKeyload (h : s.num ra = 0 ∨ Config.curve.n ≤ s.num ra) : Errs s (execKeyload ra s) .keyRange := by
  rw [execKeyload, if_pos h]
  exact errs_raiseError ..

theorem completes_execKeypub (hkey : s.key.valid = true) : Completes s (execKeypub pd s) fun t =>
    t.point pd = s.key.pub ∧ OnlyPoint pd s t ∧ t.flags = { s.flags with inf := false } := by
  rw [execKeypub, if_pos hkey]
  exact completes_complete (sameShell_of_data s _ _ _ _)
    ⟨setPoint_point_self s pd _, ⟨fun _ hi => setPoint_point_ne s _ hi, rfl, rfl⟩, rfl⟩

theorem errs_execKeypub (hkey : s.key.valid = false) : Errs s (execKeypub pd s) .noKey := by
  rw [execKeypub, if_neg (Bool.eq_false_iff.mp hkey)]
  exact errs_raiseError ..

end

/-! ## Verification (R227) -/

section
variable {c : Curve} {q : Point} {z r sv : Nat}

theorem xModN_eq_some_iff {pt : Point} {t : Nat} :
    xModN c pt = some t ↔ ∃ x y, pt = .affine x y ∧ x.toNat % c.n = t := by
  cases pt <;> simp [xModN]

/-- Step 1 of R227. -/
theorem ecdsaVerify_of_out_of_range (h : r = 0 ∨ c.n ≤ r ∨ sv = 0 ∨ c.n ≤ sv) : ecdsaVerify c q z r sv = false := by
  rw [ecdsaVerify, if_pos h]

/-- Steps 2 to 4 of R227, both ways of `T` in one equation of `xModN`. -/
theorem ecdsaVerify_of_in_range (h : ¬ (r = 0 ∨ c.n ≤ r ∨ sv = 0 ∨ c.n ≤ sv)) : ecdsaVerify c q z r sv = true ↔
    xModN c (pointAdd c (scalarMul c (z * finv sv c.n % c.n) (generator c))
      (scalarMul c (r * finv sv c.n % c.n) q)) = some r := by
  simp only [ecdsaVerify, if_neg h, fmul]
  split
  · next hnone => simp [hnone]
  · next hsome => simp [hsome]

/-- R227 with the inverse of `sv` written as the Fermat power. -/
theorem ecdsaVerify_eq_true_iff (hn : 2 < c.n) (hn' : c.n < 2 ^ 256) :
    ecdsaVerify c q z r sv = true ↔ 0 < r ∧ r < c.n ∧ 0 < sv ∧ sv < c.n ∧
      ∃ x y, pointAdd c (scalarMul c (z * (sv ^ (c.n - 2) % c.n) % c.n) (generator c))
        (scalarMul c (r * (sv ^ (c.n - 2) % c.n) % c.n) q) = .affine x y ∧ x.toNat % c.n = r := by
  rw [← finv_eq hn hn', ← xModN_eq_some_iff]
  by_cases hout : r = 0 ∨ c.n ≤ r ∨ sv = 0 ∨ c.n ≤ sv
  · rw [ecdsaVerify_of_out_of_range hout]
    exact iff_of_false Bool.false_ne_true (by omega)
  · rw [ecdsaVerify_of_in_range hout]
    exact ⟨fun h => ⟨by omega, by omega, by omega, by omega, h⟩, fun ⟨_, _, _, _, h⟩ => h⟩

end

/-! ## The obligations -/

/-- Settles O39: the slot is filled with `keyOf` of the secret, and `G` has order `n`, so its public point is not
`Infinity`. -/
theorem keyloadResult : Obligations.KeyloadResult := fun _ ra =>
  ⟨encoded_keyload ra, fun h0 hn => ⟨completes_execKeyload h0 hn, scalarMul_generator_ne_infinity h0 hn⟩,
    errs_execKeyload⟩

/-- Settles O45: `VERIFY` writes `V` alone, with the answer of `ecdsaVerify_eq_true_iff`. -/
theorem verifyResult : Obligations.VerifyResult := fun s pa ra rb rc =>
  ⟨encoded_verify pa ra rb rc, completes_complete (sameShell_of_data s _ _ _ _)
    ⟨rfl, rfl, rfl, rfl, ecdsaVerify_eq_true_iff (modulus_gt_two .n) (modulus_lt .n)⟩⟩

/-- Settles O40: `KEYPUB` looks at the valid bit alone, and `KEYCLR` at nothing. -/
theorem keypubKeyclrResults : Obligations.KeypubKeyclrResults := fun s pd =>
  ⟨encoded_keypub pd, completes_execKeypub, errs_execKeypub, encoded_keyclr,
    completes_complete (sameShell_of_data s _ _ _ _) ⟨rfl, rfl, rfl, rfl, rfl, rfl⟩⟩

end Sys2Proof.Machine
end

section
/-! SUPPORT. The housekeeping commands `NOP MOV LDI ZEROIZE`: their words (R96), with the format I word of `LDI` read
back (R92, R95), and what each writes (R250 to R253). -/

namespace Sys2Proof.Machine

/-! ## The words of the commands (R96) -/

section
variable (rd ra : Reg) (imm : BitVec 16)

theorem encoded_nop : Encoded .nop 0x00000000 := ⟨rfl, by decide⟩

theorem encoded_mov : Encoded (.mov rd ra) (formatR 0x01 false false rd.bits ra.bits 0 0) :=
  encoded_formatR (r := opFields[1]) (row := rows[1]) rfl rfl (by simp [rows, systemRows])
    (by simp [opFields, FieldUse.bad])

theorem encoded_zeroize : Encoded .zeroize 0x03000000 := ⟨rfl, by decide⟩

@[simp] theorem fieldA_formatI (op : BitVec 8) : fieldA (formatI op rd.bits imm) = rd := regAt_bits (formatI_fieldA ..)

/-- `LDI`'s row fixes the opcode and bits 23:20 only, and both are those of a format I word (R92). -/
theorem hit_ldi : rows[2].hit (formatI 0x02 rd.bits imm) = true := by
  have hupper := (upperFour_eq_zero_iff _).mp (formatI_upperZero 0x02 rd.bits imm)
  rw [hit_iff_fields, formatI_op]
  simpa [rows, systemRows, and_three, -BitVec.getLsbD_eq_getElem] using hupper

theorem encoded_ldi : Encoded (.ldi rd imm) (formatI 0x02 rd.bits imm) := by
  have hfind : (rowsOf 0x02#8).find? (Row.hit (formatI 0x02 rd.bits imm)) = some rows[2] :=
    List.find?_cons_of_pos (hit_ldi rd imm)
  have hbuild : rows[2].build (formatI 0x02 rd.bits imm) = .ldi rd imm := by
    simp [rows, systemRows, formatI_imm]
  exact ⟨rfl, decode_eq_ok (by rwa [formatI_op]) hbuild rfl⟩

end

/-! ## The commands, end by end -/

section
variable (s : State) (rd : Reg)

/-- A register written and no flag: what `MOV` and `LDI` do (R251, R252). -/
theorem completes_setReg (v : Word256) : Completes s (complete (s.setReg rd v)) fun t =>
    t.reg rd = v ∧ OnlyRegs [rd] s t ∧ t.flags = s.flags := by
  refine completes_complete (sameShell_of_data s _ _ _ _) ⟨setReg_reg_self s rd v, ⟨fun i hi => ?_, rfl, rfl⟩, rfl⟩
  exact setReg_reg_ne s v (by simpa using hi)

/-- `IMM16` is extended with zeros (R95). -/
theorem immediate_toNat (imm : BitVec 16) : (immediate imm).toNat = imm.toNat :=
  BitVec.toNat_setWidth_of_le (by decide)

theorem completes_execLdi (imm : BitVec 16) : Completes s (execLdi rd imm s) fun t =>
    t.num rd = imm.toNat ∧ OnlyRegs [rd] s t ∧ t.flags = s.flags := by
  obtain ⟨t, hnext, hends, hreg, hrest⟩ := completes_setReg s rd (immediate imm)
  refine ⟨t, hnext, hends, ?_, hrest⟩
  rw [State.num, hreg, immediate_toNat]

/-! `ZEROIZE` leaves the data as a reset does (R41, R253). -/

theorem sameData_reset_zeroizeData : SameData State.reset (zeroizeData s) := ⟨rfl, rfl, rfl, rfl⟩

theorem zeroizeData_num (r : Reg) : (zeroizeData s).num r = 0 := by
  rw [State.num, reg_congr (sameData_reset_zeroizeData s).regs]
  exact reset_num r

theorem zeroizeData_point (q : PReg) : (zeroizeData s).point q = .infinity := by
  rw [point_congr (sameData_reset_zeroizeData s).points, reset_point]

end

/-! ## The obligations -/

/-- Settles O18: `NOP` completes as it stands, `MOV` and `LDI` by `completes_setReg`. -/
theorem nopMovLdiResults : Obligations.NopMovLdiResults := fun s rd ra imm =>
  ⟨encoded_nop, completes_complete (SameShell.refl s) ⟨rfl, rfl, rfl, rfl⟩, encoded_mov rd ra,
    completes_setReg s rd (s.reg ra), encoded_ldi rd imm, completes_execLdi s rd imm⟩

/-- Settles O19: the register files as after a reset, the key slot and the flags by what `zeroizeData` writes. -/
theorem zeroizeClearsData : Obligations.ZeroizeClearsData := fun s =>
  ⟨encoded_zeroize, completes_complete (sameShell_of_data s _ _ _ _)
    ⟨zeroizeData_num s, zeroizeData_point s, rfl, rfl, rfl, rfl, rfl, rfl, rfl, rfl⟩⟩

end Sys2Proof.Machine
end

section
/-! SUPPORT. How a command can end, in the terms of R303 to R305, and what a step and an event do, each said once: the
ending of the engine's turn, the event of a step, the effect of an event on `ISTAT`. From these: errors, the fatal state
and the pending bits (R303, R305, R306, R308, R310). -/

namespace Sys2Proof.Machine

/-! ## How a command ends (R300) -/

/-- A command that can raise `codes` took `s` to `t`. -/
inductive Ending (codes : List Code) (s t : State) : Prop where
  | success (h : Succeeded s t)
  | error (c : Code) (raised : c ∈ codes) (recoverable : c.recoverable = true) (h : Failed c s t)
  | fatal (raised : Code.divZero ∈ codes) (h : Died .divZero s t)
  /-- a nonce candidate was passed over -/
  | running (h : t = { s with nonceTry := s.nonceTry + 1 })

theorem ending_of_exec {i : Instr} {s t : State} (h : exec i s = .next t) : Ending (codesRaised i) s t := by
  obtain ⟨u, h', shell⟩ | ⟨c, h', raised, recoverable⟩ | ⟨h', raised⟩ | ⟨h', -⟩ := exec_cases i s <;>
    cases h.symm.trans h'
  · exact .success (succeeded_completeOk shell)
  · exact .error c raised recoverable (failed_completeError c s)
  · exact .fatal raised (died_enterFatal _ s)
  · exact .running rfl

/-- The engine's turn on a running command, an illegal word included (R302). -/
theorem ending_of_engineTurn {s t : State} (hs : s.busy = true) (h : engineTurn s = .next t) :
    ∃ codes, Ending codes s t := by
  rw [engineTurn, if_pos hs] at h
  split at h
  · cases h
    exact ⟨[.illegalCmd], .error _ (List.mem_singleton_self _) rfl (failed_completeError _ s)⟩
  · exact ⟨_, ending_of_exec h⟩

namespace Ending

variable {codes : List Code} {s t : State} (h : Ending codes s t)
include h

theorem failed_of_err (hs : s.err = false) (ht : t.err = true) :
    ∃ c, c ∈ codes ∧ c.recoverable = true ∧ Failed c s t := by
  cases h with
  | error c raised recoverable failed => exact ⟨c, raised, recoverable, failed⟩
  | success ok => simp [ok.err, hs] at ht
  | fatal _ died => simp [died.err] at ht
  | running same => simp [same, hs] at ht

theorem died_of_fatal (hs : s.fatal = false) (ht : t.fatal = true) : Code.divZero ∈ codes ∧ Died .divZero s t := by
  cases h with
  | fatal raised died => exact ⟨raised, died⟩
  | success ok => simp [ok.fatal, hs] at ht
  | error _ _ _ failed => simp [failed.fatal, hs] at ht
  | running same => simp [same, hs] at ht

/-- A completion sets `DONE_I`, whichever way the command ends (R308). -/
theorem doneI_of_completion (hs : s.busy = true) (ht : t.busy = false) : t.istat.getLsbD 0 = true := by
  cases h with
  | success ok => simp [ok.istat]
  | error _ _ _ failed => simp [failed.istat]
  | fatal _ died => simp [died.istat]
  | running same => simp [same, hs] at ht

/-- The engine clears no pending bit. -/
theorem keeps_pending {k : Nat} (hk : s.istat.getLsbD k = true) : t.istat.getLsbD k = true := by
  cases h with
  | success ok => simp [ok.istat, hk]
  | error _ _ _ failed => simp [failed.istat, hk]
  | fatal _ died => simp [died.istat, hk]
  | running same => simp [same, hk]

/-- The pending bits a completion sets, each with its cause; passing over a candidate sets none (R308). -/
theorem cause_of_pending {k : Nat} (hs : s.istat.getLsbD k = false) (ht : t.istat.getLsbD k = true) :
    t.busy = false ∧ (k = 0 ∧ t.done = true ∨ k = 1 ∧ t.err = true ∨ k = 2 ∧ t.fatal = true) := by
  have hk : k < 4 := BitVec.lt_of_getLsbD ht
  have doneBit : ∀ k < 4, (1#4).getLsbD k = true → k = 0 := by decide
  have errBits : ∀ k < 4, (3#4).getLsbD k = true → k = 0 ∨ k = 1 := by decide
  have fatalBits : ∀ k < 4, (5#4).getLsbD k = true → k = 0 ∨ k = 2 := by decide
  cases h with
  | success ok =>
    rw [ok.istat, BitVec.getLsbD_or, hs, Bool.false_or] at ht
    exact ⟨ok.busy, .inl ⟨doneBit k hk ht, ok.done⟩⟩
  | error _ _ _ failed =>
    rw [failed.istat, BitVec.getLsbD_or, hs, Bool.false_or] at ht
    exact ⟨failed.busy, (errBits k hk ht).imp (⟨·, failed.done⟩) fun e => .inl ⟨e, failed.err⟩⟩
  | fatal _ died =>
    rw [died.istat, BitVec.getLsbD_or, hs, Bool.false_or] at ht
    exact ⟨died.busy, (fatalBits k hk ht).imp (⟨·, died.done⟩) fun e => .inr ⟨e, died.fatal⟩⟩
  | running same => simp [same, hs] at ht

theorem errI_of_err (hs : s.err = false) (ht : t.err = true) : t.istat.getLsbD 1 = true := by
  obtain ⟨c, -, -, failed⟩ := h.failed_of_err hs ht
  simp [failed.istat]

theorem fatalI_of_fatal (hs : s.fatal = false) (ht : t.fatal = true) : t.istat.getLsbD 2 = true := by
  obtain ⟨-, died⟩ := h.died_of_fatal hs ht
  simp [died.istat]

end Ending

/-! ## The zero divisor (R132, R133) -/

section
variable {s t : State} (hs : s.fatal = false) (ht : t.fatal = true)
include hs ht

theorem not_errs_of_fatal {o : Result} {c : Code} (h : o = .next t) : ¬ Errs s o c := by
  rintro ⟨t', h', failed⟩
  cases h.symm.trans h'
  simp [failed.fatal, hs] at ht

theorem not_completes_of_fatal {o : Result} {Q : State → Prop} (h : o = .next t) : ¬ Completes s o Q := by
  rintro ⟨t', h', ok, -⟩
  cases h.symm.trans h'
  simp [ok.fatal, hs] at ht

theorem zero_of_finv_fatal {m : Modulus} {rd ra : Reg} (h : exec (.finv m rd ra) s = .next t) : s.num ra = 0 := by
  by_contra h0
  rcases Nat.lt_or_ge (s.num ra) (modulus m) with hlt | hge
  · exact not_completes_of_fatal hs ht h (givesNumber_execFinv (Nat.pos_of_ne_zero h0) hlt)
  · exact not_errs_of_fatal hs ht h (errs_execFinv hge)

theorem zero_of_fdiv_fatal {m : Modulus} {rd ra rb : Reg} (h : exec (.fdiv m rd ra rb) s = .next t) :
    s.num ra < modulus m ∧ s.num rb = 0 := by
  by_cases hrange : modulus m ≤ s.num ra ∨ modulus m ≤ s.num rb
  · exact absurd (errs_execFdiv hrange) (not_errs_of_fatal hs ht h)
  · obtain ⟨ha, hb⟩ := not_or.mp hrange
    refine ⟨Nat.lt_of_not_le ha, by_contra fun h0 => ?_⟩
    exact not_completes_of_fatal hs ht h
      (givesNumber_execFdiv (Nat.lt_of_not_le ha) (Nat.pos_of_ne_zero h0) (Nat.lt_of_not_le hb))

end

/-- Only the two commands with a divisor have the fatal code in their list (R301). -/
theorem finv_or_fdiv_of_divZero {i : Instr} (h : Code.divZero ∈ codesRaised i) :
    (∃ m rd ra, i = .finv m rd ra) ∨ ∃ m rd ra rb, i = .fdiv m rd ra rb := by
  cases i with
  | finv m rd ra => exact .inl ⟨m, rd, ra, rfl⟩
  | fdiv m rd ra rb => exact .inr ⟨m, rd, ra, rb, rfl⟩
  | _ => simp [codesRaised] at h

/-! ## The event of a step (R74) -/

/-- `s` with its next event, if any, taken off the schedule. -/
def State.eventTaken (s : State) : State := { s with schedule := s.schedule.tail }

/-- A step runs the event that is next. -/
theorem runEvent_of_nextIs {s t : State} {P : Event → Prop} (h : step s = .next t) (hP : s.nextIs P) :
    ∃ e, P e ∧ runEvent e s.eventTaken = .next t := by
  obtain ⟨e, rest, hs, he⟩ := hP
  rw [step_cons hs] at h
  exact ⟨e, he, by rw [State.eventTaken, hs]; exact h⟩

/-- What a step is. -/
inductive StepCase (s t : State) : Prop where
  /-- the engine's turn on an idle block -/
  | idle (free : s.busy = false) (same : t = s.eventTaken)
  /-- the engine's turn on a running command -/
  | turn (busy : s.busy = true) (codes : List Code) (ending : Ending codes s.eventTaken t)
  /-- an event of the host -/
  | host (e : Event) (ne : e ≠ .engine) (next : ∀ P : Event → Prop, P e → s.nextIs P)
      (ran : runEvent e s.eventTaken = .next t)

theorem StepCase.of_engineTurn {s t : State} (h : engineTurn s.eventTaken = .next t) : StepCase s t := by
  cases hs : s.busy with
  | false =>
    rw [engineTurn_of_idle (show s.eventTaken.busy = false from hs)] at h
    cases h
    exact .idle hs rfl
  | true =>
    obtain ⟨codes, ending⟩ := ending_of_engineTurn (s := s.eventTaken) hs h
    exact .turn hs codes ending

/-- The inversion lemma of the step. -/
theorem step_cases {s t : State} (h : step s = .next t) : StepCase s t := by
  cases hs : s.schedule with
  | nil =>
    rw [step_nil hs] at h
    have hsame : s.eventTaken = s := by rw [State.eventTaken, hs, List.tail_nil, ← hs]
    exact .of_engineTurn (by rwa [hsame])
  | cons e rest =>
    rw [step_cons hs] at h
    have ran : runEvent e s.eventTaken = .next t := by rwa [State.eventTaken, hs]
    by_cases he : e = .engine
    · subst he
      exact .of_engineTurn ran
    · exact .host e he (fun P hp => (State.nextIs_cons P hs).mpr hp) ran

/-- `SameCore` does not look at the schedule. -/
theorem SameCore.of_eventTaken {s t : State} (h : SameCore s.eventTaken t) : SameCore s t where
  data := ⟨h.data.regs, h.data.points, h.data.key, h.data.flags⟩
  cmd := h.cmd
  busy := h.busy
  done := h.done
  err := h.err
  fatal := h.fatal
  code := h.code
  nonceTry := h.nonceTry

section
variable {s t : State} (h : step s = .next t)
include h

theorem isReset_of_nextIs_resets (hr : s.nextIs Event.resets) : IsReset t := by
  obtain ⟨e, he, h'⟩ := runEvent_of_nextIs h hr
  exact isReset_of_resets h' he

/-- A fatal block that is not busy runs no command, and the host moves nothing in it but by a reset (R306). -/
theorem sameCore_of_fatal (hf : s.fatal = true) (hs : s.busy = false) (hr : ¬ s.nextIs Event.resets) :
    SameCore s t := by
  apply SameCore.of_eventTaken
  cases step_cases h with
  | idle _ same =>
    subst same
    exact sameCore_interrupts s.eventTaken s.ien s.istat s.reply
  | turn busy => simp [hs] at busy
  | host e ne next ran =>
    exact sameCore_of_owned ran ((owned_iff s).mpr (.inr hf)) ne fun he => hr (next _ he)

/-- An accept clears `ERR` and `CODE` (R69). -/
theorem accepted_of_nextIs_writesCmd (hs : s.owned = false) (hw : s.nextIs Event.writesCmd) :
    t.busy = true ∧ t.err = false ∧ t.code = .none := by
  obtain ⟨e, he, h'⟩ := runEvent_of_nextIs h hw
  obtain ⟨v, h''⟩ := runEvent_of_writesCmd s.eventTaken hs he
  cases h'.symm.trans h''
  exact ⟨rfl, rfl, rfl⟩

/-- `ERR` and `CODE` of an idle block stay until an accept or a reset (R303). -/
theorem err_code_of_idle (hs : s.busy = false) (hr : ¬ s.nextIs Event.resets)
    (hw : ¬ (s.owned = false ∧ s.nextIs Event.writesCmd)) : t.err = s.err ∧ t.code = s.code := by
  cases step_cases h with
  | idle _ same =>
    subst same
    exact ⟨rfl, rfl⟩
  | turn busy => simp [hs] at busy
  | host e ne next ran =>
    cases runEvent_cases e s.eventTaken ne with
    | reset r h' event => exact absurd (next _ event) hr
    | accepted v h' event free => exact absurd ⟨free, next _ ⟨v, event⟩⟩ hw
    | quiet r h' | refused r h' | enable v h' | clear v h' | image off v h' =>
      cases ran.symm.trans h'
      exact ⟨rfl, rfl⟩

end

/-! ## The pending bits (R308, R310) -/

/-- What an event that is not the engine's turn does to `ISTAT`. -/
inductive IstatCase (e : Event) (s t : State) : Prop where
  | kept (h : t.istat = s.istat)
  | reset (h : t.istat = 0) (event : e.resets)
  | refused (h : t.istat = s.istat ||| ovrI) (event : e.refusable) (owned : s.owned = true)
  | cleared (v : Word32) (h : t.istat = s.istat &&& ~~~(v.setWidth 4)) (event : e.writesAt 0x014 v)

theorem runEvent_istatCase {e : Event} {s t : State} (he : e ≠ .engine) (h : runEvent e s = .next t) :
    IstatCase e s t := by
  cases runEvent_cases e s he with
  | reset r h' event =>
    cases h.symm.trans h'
    exact .reset rfl event
  | refused r h' event owned =>
    cases h.symm.trans h'
    exact .refused rfl event owned
  | clear v h' event =>
    cases h.symm.trans h'
    exact .cleared v rfl event
  | quiet r h' | accepted v h' | enable v h' | image off v h' =>
    cases h.symm.trans h'
    exact .kept rfl

/-- A bit of `ISTAT` after a write-one-to-clear (R35). -/
theorem getLsbD_clear {x : BitVec 4} {v : Word32} {k : Nat} :
    (x &&& ~~~(v.setWidth 4)).getLsbD k = (x.getLsbD k && !v.getLsbD k) := by
  by_cases hk : k < 4
  · simp [hk, -BitVec.getLsbD_eq_getElem]
  · simp [BitVec.getLsbD_of_ge x k (Nat.le_of_not_lt hk)]

theorem getLsbD_ovrI {k : Nat} (h : ovrI.getLsbD k = true) : k = 3 := by
  have only : ∀ k < 4, ovrI.getLsbD k = true → k = 3 := by decide
  exact only k (BitVec.lt_of_getLsbD h) h

section
variable {s t : State} {k : Nat} (h : step s = .next t)
include h

/-- A bit that goes away was written 1 by the host, or reset (R310). -/
theorem cleared_of_step (hs : s.istat.getLsbD k = true) (ht : t.istat.getLsbD k = false) :
    (∃ v : Word32, v.getLsbD k = true ∧ s.nextIs (Event.writesAt 0x014 v)) ∨ s.nextIs Event.resets := by
  cases step_cases h with
  | idle _ same =>
    subst same
    exact absurd hs (ne_true_of_eq_false ht)
  | turn _ _ ending => exact absurd (ending.keeps_pending hs) (ne_true_of_eq_false ht)
  | host e ne next ran =>
    cases runEvent_istatCase ne ran with
    | kept hi => exact absurd (hi ▸ hs) (ne_true_of_eq_false ht)
    | reset _ event => exact .inr (next _ event)
    | refused hi => simp [hi, State.eventTaken, hs] at ht
    | cleared v hi event =>
      rw [hi, getLsbD_clear] at ht
      have hv : v.getLsbD k = true := by simpa [State.eventTaken, hs] using ht
      exact .inl ⟨v, hv, next _ event⟩

/-- A bit newly pending has its own cause (R308). -/
theorem cause_of_step (hs : s.istat.getLsbD k = false) (ht : t.istat.getLsbD k = true) :
    (s.busy = true ∧ t.busy = false ∧ (k = 0 ∧ t.done = true ∨ k = 1 ∧ t.err = true ∨ k = 2 ∧ t.fatal = true)) ∨
      (k = 3 ∧ s.owned = true ∧ s.nextIs Event.refusable) := by
  cases step_cases h with
  | idle _ same =>
    subst same
    exact absurd ht (ne_true_of_eq_false hs)
  | turn busy _ ending => exact .inl ⟨busy, ending.cause_of_pending hs ht⟩
  | host e ne next ran =>
    cases runEvent_istatCase ne ran with
    | kept hi => exact absurd (hi ▸ ht) (ne_true_of_eq_false hs)
    | reset hi => simp [hi] at ht
    | refused hi event owned =>
      have hbit : ovrI.getLsbD k = true := by simpa [hi, State.eventTaken, hs] using ht
      exact .inr ⟨getLsbD_ovrI hbit, owned, next _ event⟩
    | cleared v hi => simp [hi, State.eventTaken, hs] at ht

/-- A refused access sets `OVR_I` (R70). -/
theorem ovrI_of_refusable (hs : s.owned = true) (hr : s.nextIs Event.refusable) : t.istat.getLsbD 3 = true := by
  obtain ⟨e, he, h'⟩ := runEvent_of_nextIs h hr
  obtain ⟨r, h''⟩ := runEvent_of_refusable s.eventTaken hs he
  cases h'.symm.trans h''
  simp [ovrI]

/-- A write of 1 clears the bit (R35). -/
theorem cleared_of_writesAt {v : Word32} (hv : v.getLsbD k = true) (hw : s.nextIs (Event.writesAt 0x014 v)) :
    t.istat.getLsbD k = false := by
  obtain ⟨e, he, h'⟩ := runEvent_of_nextIs h hw
  rw [runEvent_writesAt _ (by decide) (by decide) he] at h'
  cases h'
  exact getLsbD_clear.trans (by simp [hv])

theorem istat_of_resets (hr : s.nextIs Event.resets) : t.istat = 0 := by
  rw [isReset_of_nextIs_resets h hr]
  rfl

end

/-- The interrupt output is 1 exactly when an enabled bit is pending (R36). -/
theorem irq_iff (s : State) : s.irq = true ↔ ∃ k, k < 4 ∧ s.ien.getLsbD k = true ∧ s.istat.getLsbD k = true := by
  rw [State.irq, bne_iff_ne]
  constructor
  · intro hne
    by_contra hnone
    simp only [not_exists, not_and, Bool.not_eq_true] at hnone
    refine hne (BitVec.eq_of_getLsbD_eq fun k hk => ?_)
    rw [BitVec.getLsbD_and, BitVec.ofNat_eq_ofNat, BitVec.getLsbD_zero]
    cases hien : s.ien.getLsbD k with
    | false => rfl
    | true => exact hnone k hk hien
  · rintro ⟨k, -, hien, histat⟩ hzero
    have hbit := congrArg (BitVec.getLsbD · k) hzero
    simp [hien, histat] at hbit

/-! ## The obligations -/

/-- Settles O10: the first half by the ending of the command, the second by the event of the step. -/
theorem recoverableErrorsArePrecise : Obligations.RecoverableErrorsArePrecise :=
  ⟨fun _ _ _ hs h ht => (ending_of_exec h).failed_of_err hs ht, fun _ _ hs h =>
    ⟨isReset_of_nextIs_resets h, accepted_of_nextIs_writesCmd h, err_code_of_idle h hs⟩⟩

/-- Settles O11: only `FINV` and `FDIV` list the fatal code, and each reaches it on a zero divisor alone. -/
theorem fatalOnlyOnZeroDivisor : Obligations.FatalOnlyOnZeroDivisor := by
  intro i s t hs h ht
  obtain ⟨raised, died⟩ := (ending_of_exec h).died_of_fatal hs ht
  refine ⟨died, ?_⟩
  rcases finv_or_fdiv_of_divZero raised with ⟨m, rd, ra, rfl⟩ | ⟨m, rd, ra, rb, rfl⟩
  · exact .inl ⟨m, rd, ra, rfl, zero_of_finv_fatal hs ht h⟩
  · exact .inr ⟨m, rd, ra, rb, rfl, zero_of_fdiv_fatal hs ht h⟩

/-- Settles O12: a fatal block is engine-owned, so the laws of the owned block hold of it. -/
theorem fatalStateLeftOnlyByReset : Obligations.FatalStateLeftOnlyByReset := by
  intro s hf hs
  have howned : s.owned = true := (owned_iff s).mpr (.inr hf)
  exact ⟨howned, ownedAccess_of_owned howned, fun t h => ⟨isReset_of_nextIs_resets h, sameCore_of_fatal h hf hs⟩⟩

/-- Settles O54: a step clears a bit only as `cleared_of_step` says, and every completion pends `DONE_I`. -/
theorem pendingBitsClearedOnlyByHost : Obligations.PendingBitsClearedOnlyByHost :=
  ⟨fun _ _ _ h => cleared_of_step h, fun _ _ _ hs h => (ending_of_exec h).doneI_of_completion hs⟩

/-- Settles O55: no bit without its cause (`cause_of_step`), and each cause with its bit. -/
theorem pendingBitsSetByTheirEvents : Obligations.PendingBitsSetByTheirEvents := by
  refine ⟨fun s t h => ?_, irq_iff, fun s t hs h ht => ?_, fun s t h =>
    ⟨ovrI_of_refusable h, fun v k hv => cleared_of_writesAt h hv, istat_of_resets h⟩⟩
  · refine ⟨fun hs ht => ?_, fun hs ht => ?_, fun hs ht => ?_, fun hs ht => ?_⟩ <;>
      simpa using cause_of_step h hs ht
  · obtain ⟨codes, ending⟩ := ending_of_engineTurn hs h
    exact ⟨ending.doneI_of_completion hs ht, ending.errI_of_err, ending.fatalI_of_fatal⟩

end Sys2Proof.Machine
end

section
/-! SUPPORT. A write of the window as one step of the machine (R63, R74). From it and the reset input: both resets, from
every state (R341, R342). -/

namespace Sys2Proof.Machine

/-- A host write of the window, next to happen, is one step with the port's answer kept (R63, R74). -/
theorem step_write {s t : State} {off size : Nat} {v : Word32} {rest : List Event} {r : Reply}
    (hs : s.schedule = .write off size v :: rest) (hw : memWrite off size v { s with schedule := rest } = (r, t)) :
    step s = .next { t with reply := some r } := by
  rw [step_cons hs, runEvent, hw, answered]

/-- Settles O57: the reset input and a write to `CTRL`, taken off the schedule, in any state. -/
theorem resetsFromEveryState : Obligations.ResetsFromEveryState := by
  intro s rest
  refine ⟨fun hs => ?hard, fun v hs => ⟨fun hv => ?soft, fun hv => ?none⟩⟩
  case hard => rw [step_cons hs, runEvent, hardReset, resetAll]
  case soft => rw [step_write hs (memWrite_srst _ hv), softReset, resetAll]
  case none => exact step_write hs (memWrite_ctrl_zero _ hv)

end Sys2Proof.Machine
end

section
/-! SUPPORT. The decoder and the encoder as inverses of each other, over all 30 rows (R96 to R99): the words of the
commands left, the command of a word that hits a row, and the rows apart from each other. -/

namespace Sys2Proof.Machine

/-! ## The words of the commands left (R96) -/

section
variable (pd pa pb : PReg) (rd re ra rb : Reg)

theorem encoded_mull : Encoded (.mull rd ra rb) (formatR 0x17 false false rd.bits ra.bits rb.bits 0) :=
  encoded_formatR (r := opFields[10]) (row := rows[12]) rfl rfl (by simp [rows, systemRows, fieldRows])
    (by simp [opFields, FieldUse.bad])

theorem encoded_mulh : Encoded (.mulh rd ra rb) (formatR 0x18 false false rd.bits ra.bits rb.bits 0) :=
  encoded_formatR (r := opFields[11]) (row := rows[13]) rfl rfl (by simp [rows, systemRows, fieldRows])
    (by simp [opFields, FieldUse.bad])

theorem encoded_padd : Encoded (.padd pd pa pb) (formatR 0x23 false false pd.bits pa.bits pb.bits 0) :=
  encoded_formatR (r := opFields[15]) (row := rows[17]) rfl rfl (by simp [rows, systemRows, fieldRows, pointRows])
    (by simp [opFields, FieldUse.bad])

theorem encoded_pmul : Encoded (.pmul pd pa rb) (formatR 0x24 false false pd.bits pa.bits rb.bits 0) :=
  encoded_formatR (r := opFields[16]) (row := rows[18]) rfl rfl (by simp [rows, systemRows, fieldRows, pointRows])
    (by simp [opFields, FieldUse.bad])

theorem encoded_kgen : Encoded (.kgen rd ra) (formatR 0x33 false false rd.bits ra.bits 0 0) :=
  encoded_formatR (r := opFields[25]) (row := rows[27]) rfl rfl
    (by simp [rows, systemRows, fieldRows, pointRows, ecdsaRows]) (by simp [opFields, FieldUse.bad])

variable {rd re} in
/-- The one command whose word is legal for some operands only (R97). -/
theorem encoded_sign (hne : rd ≠ re) : Encoded (.sign rd re ra) (formatR 0x34 false false rd.bits ra.bits 0 re.bits) :=
  encoded_formatR (r := opFields[26]) (row := rows[28]) rfl rfl
    (by simp [rows, systemRows, fieldRows, pointRows, ecdsaRows]) (by simp [opFields, FieldUse.bad])
    (decide_eq_true hne)

end

theorem Encoded.decode_encode {i : Instr} {w : Word32} (h : Encoded i w) : decode (encode i) = .ok i := by
  obtain ⟨hencode, hdecode⟩ := h
  rw [hencode, hdecode]

/-! ## The command of a word (R96, R98) -/

/-- A general register read from a field is written back as the field (R94). -/
theorem regAt_bits_eq (lo : Nat) (w : Word32) : (regAt lo w).bits = w.extractLsb' lo 4 := by
  have h := (w.extractLsb' lo 4).isLt
  apply BitVec.eq_of_toNat_eq
  simp only [Reg.bits, regAt, Fin.val_ofNat, BitVec.toNat_ofNat]
  omega

/-- A point register read from a field whose upper two bits are 0 is written back as the field (R94). -/
theorem pregAt_bits_eq {lo : Nat} {w : Word32} (h : w.extractLsb' lo 4 &&& 12#4 = 0#4) :
    (pregAt lo w).bits = w.extractLsb' lo 4 := by
  have low : ∀ v : BitVec 4, v &&& 12#4 = 0#4 → BitVec.ofNat 4 (Fin.ofNat 4 (v.extractLsb' 0 2).toNat).val = v := by
    decide
  have hpart : w.extractLsb' lo 2 = (w.extractLsb' lo 4).extractLsb' 0 2 := by
    ext k hk
    simp [show k < 4 by omega]
  rw [PReg.bits, pregAt, hpart]
  exact low _ h

/-- A format I word is its fields (R92). -/
theorem formatI_of_fields {w : Word32} (hupper : w.extractLsb' 20 4 = 0#4) :
    formatI (w.extractLsb' 24 8) (w.extractLsb' 16 4) (w.extractLsb' 0 16) = w := by
  apply BitVec.eq_of_getLsbD_eq
  intro k hk
  rw [formatI_getLsbD]
  split_ifs with h16 h20 h24
  · rw [BitVec.getLsbD_extractLsb', decide_eq_true h16, Bool.true_and, Nat.zero_add]
  · rw [BitVec.getLsbD_extractLsb', decide_eq_true (by omega), Bool.true_and, Nat.add_sub_cancel' (by omega)]
  · have hbit := congrArg (BitVec.getLsbD · (k - 20)) hupper
    simp only [BitVec.getLsbD_extractLsb', BitVec.getLsbD_zero] at hbit
    rw [decide_eq_true (by omega), Bool.true_and, Nat.add_sub_cancel' (by omega)] at hbit
    exact hbit.symm
  · rw [BitVec.getLsbD_extractLsb', decide_eq_true (by omega), Bool.true_and, Nat.add_sub_cancel' (by omega)]

/-- A format I word with the operands of `w` is `w` when the opcode and the zeros agree (R92). -/
theorem formatI_eq_iff {op : BitVec 8} {w : Word32} : formatI op (w.extractLsb' 16 4) (w.extractLsb' 0 16) = w ↔
    w.extractLsb' 24 8 = op ∧ w.extractLsb' 22 2 = 0#2 ∧ w.getLsbD 21 = false ∧ w.getLsbD 20 = false := by
  rw [← upperFour_eq_zero_iff]
  constructor
  · intro h
    rw [← formatI_op op (w.extractLsb' 16 4) (w.extractLsb' 0 16), h, ← h]
    exact ⟨rfl, formatI_upperZero ..⟩
  · rintro ⟨rfl, hupper⟩
    exact formatI_of_fields hupper

/-- A format R word is `w` when all fields agree (R91). -/
theorem formatR_eq_iff {op : BitVec 8} {f m : Bool} {a b c d : BitVec 4} {w : Word32} : formatR op f m a b c d = w ↔
    w.extractLsb' 24 8 = op ∧ w.extractLsb' 22 2 = 0#2 ∧ w.getLsbD 21 = f ∧ w.getLsbD 20 = m ∧
    w.extractLsb' 16 4 = a ∧ w.extractLsb' 12 4 = b ∧ w.extractLsb' 8 4 = c ∧ w.extractLsb' 4 4 = d ∧
    w.extractLsb' 0 4 = 0#4 := by
  constructor
  · rintro rfl
    exact ⟨formatR_op .., formatR_upperZero .., formatR_flag .., formatR_modulus .., formatR_fieldA ..,
      formatR_fieldB .., formatR_fieldC .., formatR_fieldD .., formatR_lowZero ..⟩
  · rintro ⟨rfl, hupper, rfl, rfl, rfl, rfl, rfl, rfl, hlow⟩
    exact word_eq_of_fields (formatR_op ..) ((formatR_upperZero ..).trans hupper.symm) (formatR_flag ..)
      (formatR_modulus ..) (formatR_fieldA ..) (formatR_fieldB ..) (formatR_fieldC ..) (formatR_fieldD ..)
      ((formatR_lowZero ..).trans hlow.symm)

theorem modulusBit_bit (w : Word32) : (modulusBit w).bit = w.getLsbD 20 := by
  rw [modulusBit]
  cases w.getLsbD 20 <;> rfl

/-- A word that hits a row is the word of the command the row builds: the row's mask fixes every bit that no operand
field reads (R96, R98). -/
theorem encode_build_of_hit {w : Word32} {row : Row} (hrow : row ∈ rows) (h : row.hit w = true) :
    encode (row.build w) = w := by
  rw [hit_iff_fields] at h
  simp only [rows, systemRows, fieldRows, pointRows, ecdsaRows, List.cons_append, List.nil_append, List.mem_cons,
    List.not_mem_nil, or_false] at hrow
  rcases hrow with rfl | rfl | rfl | rfl | rfl | rfl | rfl | rfl | rfl | rfl | rfl | rfl | rfl | rfl | rfl | rfl | rfl |
    rfl | rfl | rfl | rfl | rfl | rfl | rfl | rfl | rfl | rfl | rfl | rfl | rfl
  all_goals
    simp only [encode, formatI_eq_iff, formatR_eq_iff, fieldA, fieldB, fieldC, fieldD, pointA, pointB, pointC, flagBit,
      regAt_bits_eq, modulusBit_bit]
    simp [and_255, and_three, and_fifteen, -BitVec.getLsbD_eq_getElem] at h
    simp [h, pregAt_bits_eq, -BitVec.getLsbD_eq_getElem]

/-! ## The rows are disjoint (R96) -/

/-- Two rows that one word hits agree on the bits both fix. -/
theorem fixed_and_mask_eq_of_hit {w : Word32} {r r' : Row} (h : r.hit w = true) (h' : r'.hit w = true) :
    r.fixed &&& r'.mask = r'.fixed &&& r.mask := by
  rw [Row.hit, beq_iff_eq] at h h'
  rw [← h, ← h', BitVec.and_assoc, BitVec.and_assoc, BitVec.and_comm r.mask]

/-- Any two rows differ in a bit that both fix. -/
theorem eq_of_fixed_and_mask_eq : ∀ j k : Fin rows.length,
    rows[j].fixed &&& rows[k].mask = rows[k].fixed &&& rows[j].mask → j = k := by
  decide +kernel

/-! ## The obligations -/

/-- Settles O2, command by command: each command's word was read back in `Encoded`. -/
theorem decodeOfEncode : Obligations.DecodeOfEncode := by
  intro i hwf
  cases i with
  | nop => exact encoded_nop.decode_encode
  | mov rd ra => exact (encoded_mov rd ra).decode_encode
  | ldi rd imm => exact (encoded_ldi rd imm).decode_encode
  | zeroize => exact encoded_zeroize.decode_encode
  | fadd m rd ra rb => exact (encoded_fadd m rd ra rb).decode_encode
  | fsub m rd ra rb => exact (encoded_fsub m rd ra rb).decode_encode
  | fmul m rd ra rb => exact (encoded_fmul m rd ra rb).decode_encode
  | fpow m neg rd ra rb => exact (encoded_fpow m neg rd ra rb).decode_encode
  | finv m rd ra => exact (encoded_finv m rd ra).decode_encode
  | fdiv m rd ra rb => exact (encoded_fdiv m rd ra rb).decode_encode
  | mred m rd rb => exact (encoded_mred m rd rb).decode_encode
  | mredW m rd ra rb => exact (encoded_mredW m rd ra rb).decode_encode
  | mull rd ra rb => exact (encoded_mull rd ra rb).decode_encode
  | mulh rd ra rb => exact (encoded_mulh rd ra rb).decode_encode
  | pset pd ra rb => exact (encoded_pset pd ra rb).decode_encode
  | pinf pd => exact (encoded_pinf pd).decode_encode
  | pmov pd pa => exact (encoded_pmov pd pa).decode_encode
  | padd pd pa pb => exact (encoded_padd pd pa pb).decode_encode
  | pmul pd pa rb => exact (encoded_pmul pd pa rb).decode_encode
  | pgetx rd pa => exact (encoded_pgetx rd pa).decode_encode
  | pgety rd pa => exact (encoded_pgety rd pa).decode_encode
  | peq pa pb => exact (encoded_peq pa pb).decode_encode
  | pldg pd => exact (encoded_pldg pd).decode_encode
  | pdec odd pd ra => exact (encoded_pdec odd pd ra).decode_encode
  | keyload ra => exact (encoded_keyload ra).decode_encode
  | keypub pd => exact (encoded_keypub pd).decode_encode
  | keyclr => exact encoded_keyclr.decode_encode
  | kgen rd ra => exact (encoded_kgen rd ra).decode_encode
  | sign rd re ra => exact (encoded_sign ra (of_decide_eq_true hwf)).decode_encode
  | verify pa ra rb rc => exact (encoded_verify pa ra rb rc).decode_encode

/-- Settles O3: the command was built by a row that the word hits. -/
theorem encodeOfDecode : Obligations.EncodeOfDecode := by
  intro w i h
  rw [decode] at h
  split at h
  · cases h
  · next row hfind =>
    split at h
    · next hwf =>
      cases h
      exact ⟨hwf, encode_build_of_hit (List.mem_of_find?_eq_some hfind) (List.find?_some hfind)⟩
    · cases h

/-- Settles O4: two rows of one word agree on the bits both fix, and no two rows do. -/
theorem opcodeRowsDisjoint : Obligations.OpcodeRowsDisjoint := by
  intro w j k hj hk h h'
  have heq := eq_of_fixed_and_mask_eq ⟨j, hj⟩ ⟨k, hk⟩ (fixed_and_mask_eq_of_hit h h')
  exact congrArg Fin.val heq

end Sys2Proof.Machine
end

section
/-! SUPPORT. What a step is and how the engine's turn ends, with the command and its search named (R74, R300, R302,
R351): every step has a next state, every bounded command is over in time, every code is one of its command. -/

namespace Sys2Proof.Machine

/-! ## Every step has a next state -/

/-- A step is the engine's turn or the next event of the host, on the state with the event taken off. -/
theorem step_eq (s : State) : (s.engineNext ∧ step s = engineTurn s.eventTaken) ∨
    ∃ e rest, e ≠ .engine ∧ s.schedule = e :: rest ∧ step s = runEvent e s.eventTaken := by
  cases hs : s.schedule with
  | nil =>
    have hsame : s.eventTaken = s := by rw [State.eventTaken, hs, List.tail_nil, ← hs]
    exact .inl ⟨.inl hs, by rw [hsame, step_nil hs]⟩
  | cons e rest =>
    have hstep : step s = runEvent e s.eventTaken := by rw [step_cons hs, State.eventTaken, hs, List.tail_cons]
    by_cases he : e = .engine
    · subst he
      exact .inl ⟨.inr ⟨rest, hs⟩, hstep⟩
    · exact .inr ⟨e, rest, he, rfl, hstep⟩

theorem engineTurn_of_decode_ok {s : State} {i : Instr} (hbusy : s.busy = true) (h : decode s.cmd = .ok i) :
    engineTurn s = exec i s := by
  simp [engineTurn, hbusy, h]

theorem engineTurn_next (s : State) : ∃ t, engineTurn s = .next t := by
  cases hbusy : s.busy with
  | false => exact ⟨s, engineTurn_of_idle hbusy⟩
  | true =>
    cases hdecode : decode s.cmd with
    | error e => exact ⟨_, engineTurn_of_decode_error hbusy hdecode⟩
    | ok i =>
      rw [engineTurn_of_decode_ok hbusy hdecode]
      exact exec_next i s

theorem runEvent_next {e : Event} (s : State) (he : e ≠ .engine) : ∃ t, runEvent e s = .next t := by
  cases runEvent_cases e s he with
  | quiet _ h | reset _ h | refused _ h | accepted _ h | enable _ h | clear _ h | image _ _ h => exact ⟨_, h⟩

theorem step_next (s : State) : ∃ t, step s = .next t := by
  rcases step_eq s with ⟨-, h⟩ | ⟨e, -, he, -, h⟩ <;> rw [h]
  · exact engineTurn_next _
  · exact runEvent_next _ he

/-! ## How the engine's turn ends (R300, R351) -/

/-- The engine's turn took the running command of `s` to `t`. -/
inductive TurnCase (s t : State) : Prop where
  | success (h : Succeeded s t)
  | error (c : Code) (recoverable : c.recoverable = true) (h : Failed c s t)
  | fatal (h : Died .divZero s t)
  | running (i : Instr) (word : decode s.cmd = .ok i) (search : searches i = true)
      (h : t = { s with nonceTry := s.nonceTry + 1 })

theorem turn_cases {s t : State} (hs : s.busy = true) (h : engineTurn s = .next t) : TurnCase s t := by
  cases hdecode : decode s.cmd with
  | error e =>
    rw [engineTurn_of_decode_error hs hdecode] at h
    cases h
    exact .error _ rfl (failed_completeError _ s)
  | ok i =>
    rw [engineTurn_of_decode_ok hs hdecode] at h
    obtain ⟨u, h', shell⟩ | ⟨c, h', -, recoverable⟩ | ⟨h', -⟩ | ⟨h', search⟩ := exec_cases i s <;>
      cases h.symm.trans h'
    · exact .success (succeeded_completeOk shell)
    · exact .error c recoverable (failed_completeError c s)
    · exact .fatal (died_enterFatal _ s)
    · exact .running i hdecode search rfl

/-- Only a command that searches for a nonce can still be running after the engine's turn. -/
theorem idle_of_turn {s t : State} (hs : s.busy = true) (hbounded : ∀ i, decode s.cmd = .ok i → searches i = false)
    (h : engineTurn s = .next t) : t.busy = false := by
  cases turn_cases hs h with
  | success ok => exact ok.busy
  | error _ _ failed => exact failed.busy
  | fatal died => exact died.busy
  | running i word search => simp [hbounded i word] at search

/-- The numbers of the recoverable codes (R300, R301). -/
theorem toByte_of_recoverable {c : Code} (h : c.recoverable = true) : 0 < c.toByte.toNat ∧ c.toByte.toNat < 0x80 := by
  revert h
  cases c <;> decide

/-- The recoverable codes have six of the eight numbers that `CODE` shows (R301). -/
theorem toByte_mem_of_recoverable {c : Code} (h : c.recoverable = true) :
    c.toByte ∈ [0x00, 0x01, 0x02, 0x03, 0x04, 0x05, 0x06, 0x80] := by
  revert h
  cases c <;> decide

/-! ## The events of the host while a command runs (R70) -/

/-- No event of the host touches the events still to come. -/
theorem runEvent_schedule {e : Event} {s t : State} (he : e ≠ .engine) (h : runEvent e s = .next t) :
    t.schedule = s.schedule := by
  cases runEvent_cases e s he with
  | quiet _ h' | reset _ h' | refused _ h' | accepted _ h' | enable _ h' | clear _ h' | image _ _ h' =>
    cases h.symm.trans h'
    rfl

/-- While a command runs, the host leaves it running or resets the block. -/
theorem reset_or_sameCore {e : Event} {s t : State} (hs : s.busy = true) (he : e ≠ .engine)
    (h : runEvent e s = .next t) : IsReset t ∨ SameCore s t := by
  by_cases hr : e.resets
  · exact .inl (isReset_of_resets h hr)
  · exact .inr (sameCore_of_owned h ((owned_iff s).mpr (.inl hs)) he hr)

theorem IsReset.busy {t : State} (h : IsReset t) : t.busy = false := by
  rw [h]
  rfl

/-- A bounded command is over after its turn, and until then the host does not change it. -/
theorem idle_or_waiting_of_step {s t : State} {e : Event} {rest : List Event} (hs : s.busy = true)
    (hbounded : ∀ i, decode s.cmd = .ok i → searches i = false) (hsched : s.schedule = e :: rest)
    (h : step s = .next t) : t.busy = false ∨ (t.cmd = s.cmd ∧ t.schedule = rest) := by
  have htail : s.eventTaken.schedule = rest := by rw [State.eventTaken, hsched, List.tail_cons]
  rcases step_eq s with ⟨-, hturn⟩ | ⟨e', -, he, -, hevent⟩
  · exact .inl (idle_of_turn (s := s.eventTaken) hs hbounded (hturn.symm.trans h))
  · have hran := hevent.symm.trans h
    rcases reset_or_sameCore (s := s.eventTaken) hs he hran with hreset | hsame
    · exact .inl hreset.busy
    · exact .inr ⟨hsame.cmd, (runEvent_schedule he hran).trans htail⟩

/-- The steps to the end of a bounded command, by induction on the events still to come. -/
theorem exists_idle_of_bounded {schedule : List Event} : ∀ {s : State}, s.schedule = schedule → s.busy = true →
    (∀ i, decode s.cmd = .ok i → searches i = false) →
    ∃ k t, k ≤ schedule.length + 1 ∧ runSteps k s = .next t ∧ t.busy = false := by
  induction schedule with
  | nil =>
    intro s hsched hs hbounded
    obtain ⟨t, h⟩ := step_next s
    refine ⟨1, t, le_rfl, runSteps_succ 0 h, ?_⟩
    rw [step_nil hsched] at h
    exact idle_of_turn hs hbounded h
  | cons e rest ih =>
    intro s hsched hs hbounded
    obtain ⟨t, h⟩ := step_next s
    cases hbusy : t.busy with
    | false => exact ⟨1, t, by simp, runSteps_succ 0 h, hbusy⟩
    | true =>
      obtain ⟨hcmd, hrest⟩ := (idle_or_waiting_of_step hs hbounded hsched h).resolve_left (by simp [hbusy])
      obtain ⟨k, u, hk, hrun, hidle⟩ := ih hrest hbusy (by rwa [hcmd])
      exact ⟨k + 1, u, by simpa using hk, (runSteps_succ k h).trans hrun, hidle⟩

/-! ## The obligations -/

/-- Settles O8: the engine's turn and every event of the host answer a next state. -/
theorem everyStepHasNextState : Obligations.EveryStepHasNextState := step_next

/-- Settles O9: `turn_cases`, with the progress fields as an accept left them. -/
theorem commandEndsInOneOfThreeWays : Obligations.CommandEndsInOneOfThreeWays := by
  intro s hs herr hfatal hcode
  obtain ⟨t, h⟩ := engineTurn_next s
  refine ⟨t, h, ?_⟩
  cases turn_cases hs h with
  | success ok =>
    exact .inl ⟨ok.busy, ok.done, ok.err.trans herr, ok.fatal.trans hfatal, by rw [ok.code, hcode]; rfl⟩
  | error c recoverable failed =>
    obtain ⟨hpos, hlt⟩ := toByte_of_recoverable recoverable
    rw [← failed.code] at hpos hlt
    exact .inr (.inl ⟨failed.busy, failed.done, failed.err, failed.fatal.trans hfatal, hpos, hlt, failed.data⟩)
  | fatal died =>
    exact .inr (.inr (.inl ⟨died.busy, died.done, died.err, died.fatal, by rw [died.code]; decide, died.data⟩))
  | running i word search same => exact .inr (.inr (.inr ⟨i, word, search, same⟩))

/-- Settles O13, by induction on the schedule. -/
theorem boundedCommandsComplete : Obligations.BoundedCommandsComplete := fun _ hs hbounded =>
  exists_idle_of_bounded rfl hs hbounded

/-- Settles O16: the code by the ending of the command; in a state that meets the invariant by the cases of R33. -/
theorem errorCodesByCommand : Obligations.ErrorCodesByCommand := by
  refine ⟨fun i s t h => ?_, ⟨rfl, rfl, rfl, rfl, rfl, rfl, rfl, rfl, rfl, rfl⟩, fun s hinv => ?_⟩
  · cases ending_of_exec h with
    | success ok => exact .inl ok.code
    | error c raised _ failed => exact .inr (failed.code ▸ raised)
    | fatal raised died => exact .inr (died.code ▸ raised)
    | running same => exact .inl (same ▸ rfl)
  · obtain ⟨-, -, -, -, hcode⟩ | ⟨-, -, -, hcode⟩ | ⟨-, -, -, -, hcode⟩ | ⟨-, -, -, -, hcode⟩ := hinv.status
    · simp [hcode, Code.toByte]
    · simp [hcode, Code.toByte]
    · exact toByte_mem_of_recoverable hcode
    · simp [hcode, Code.toByte]

end Sys2Proof.Machine
end

section
/-! SUPPORT. Two runs of one command side by side: a relation of states that fixes what commands read and is kept by
what they write is kept by every command, said once over all commands (`sim_exec`). Two such relations: states that differ in
interrupt bits, schedule and reply (R309), and states that differ in `KEY.secret` alone (R26). -/

namespace Sys2Proof.Machine

/-! ## Relations that commands keep -/

/-- Both outcomes are next states, and `R` relates them. -/
def Sim (R : State → State → Prop) (o o' : Result) : Prop := ∃ t t', o = .next t ∧ o' = .next t' ∧ R t t'

/-- Related states read alike, `KEY.secret` apart, and stay related by every write and every end of a command. -/
structure Compatible (R : State → State → Prop) : Prop where
  regs {s s'} : R s s' → s'.regs = s.regs
  points {s s'} : R s s' → s'.points = s.points
  keyValid {s s'} : R s s' → s'.key.valid = s.key.valid
  keyPub {s s'} : R s s' → s'.key.pub = s.key.pub
  tries {s s'} : R s s' → s'.nonceTry = s.nonceTry
  setReg {s s'} (i v) : R s s' → R (s.setReg i v) (s'.setReg i v)
  setPoint {s s'} (i v) : R s s' → R (s.setPoint i v) (s'.setPoint i v)
  setKey {s s'} (k) : R s s' → R (s.setKey k) (s'.setKey k)
  mapFlags {s s'} (f : Flags → Flags) : R s s' → R { s with flags := f s.flags } { s' with flags := f s'.flags }
  zeroize {s s'} : R s s' → R (zeroizeData s) (zeroizeData s')
  completeOk {s s'} : R s s' → R (completeOk s) (completeOk s')
  completeError {s s'} (c) : R s s' → R (completeError c s) (completeError c s')
  enterFatal {s s'} (c) : R s s' → R (enterFatal c s) (enterFatal c s')
  nextTry {s s'} : R s s' → R { s with nonceTry := s.nonceTry + 1 } { s' with nonceTry := s'.nonceTry + 1 }

section
variable {R : State → State → Prop}

theorem Sim.exists_next {o o' : Result} {t : State} (h : Sim R o o') (ho : o = .next t) :
    ∃ t', o' = .next t' ∧ R t t' := by
  obtain ⟨u, t', hu, ht', hrel⟩ := h
  cases ho.symm.trans hu
  exact ⟨t', ht', hrel⟩

/-- Two outcomes chosen by the same test. -/
theorem sim_ite {c : Prop} [Decidable c] {a b a' b' : Result} (ha : Sim R a a') (hb : Sim R b b') :
    Sim R (if c then a else b) (if c then a' else b') := by
  split
  · exact ha
  · exact hb

variable (hR : Compatible R) {s s' : State} (h : R s s')
include hR h

/-! ### What commands read -/

theorem Compatible.reg (i : Reg) : s'.reg i = s.reg i := reg_congr (hR.regs h) i

theorem Compatible.num (i : Reg) : s'.num i = s.num i := by rw [State.num, hR.reg h, State.num]

theorem Compatible.point (i : PReg) : s'.point i = s.point i := point_congr (hR.points h) i

theorem Compatible.inRange (m : Nat) (sources : List Reg) : s'.inRange m sources = s.inRange m sources := by
  simp only [State.inRange, hR.num h]

/-! ### Ends and shared shapes of commands -/

theorem sim_complete : Sim R (complete s) (complete s') := ⟨_, _, rfl, rfl, hR.completeOk h⟩

theorem sim_raiseError (c : Code) : Sim R (raiseError c s) (raiseError c s') := ⟨_, _, rfl, rfl, hR.completeError c h⟩

theorem sim_raiseFatal (c : Code) : Sim R (raiseFatal c s) (raiseFatal c s') := ⟨_, _, rfl, rfl, hR.enterFatal c h⟩

theorem sim_nextCandidate : Sim R (nextCandidate s) (nextCandidate s') := ⟨_, _, rfl, rfl, hR.nextTry h⟩

theorem sim_completeResult (rd : Reg) (v : Nat) : Sim R (completeResult rd v s) (completeResult rd v s') :=
  sim_complete hR (hR.mapFlags (fun f => { f with z := isZero (BitVec.ofNat 256 v) }) (hR.setReg rd _ h))

/-- A point written with a value of `INF`. -/
theorem sim_complete_point (pd : PReg) (v : Point) (b : Bool) :
    Sim R (complete ((s.setPoint pd v).setInf b)) (complete ((s'.setPoint pd v).setInf b)) :=
  sim_complete hR (hR.mapFlags (fun f => { f with inf := b }) (hR.setPoint pd v h))

theorem sim_binaryField (f : Nat → Nat → Nat → Nat) (m : Modulus) (rd ra rb : Reg) :
    Sim R (binaryField f m rd ra rb s) (binaryField f m rd ra rb s') := by
  simp only [binaryField, hR.inRange h, hR.num h]
  exact sim_ite (sim_completeResult hR h ..) (sim_raiseError hR h _)

theorem sim_readCoordinate (coord : Word256 → Word256 → Word256) (rd : Reg) (pa : PReg) :
    Sim R (readCoordinate coord rd pa s) (readCoordinate coord rd pa s') := by
  simp only [readCoordinate, hR.point h]
  split
  · exact sim_raiseError hR h _
  · exact sim_complete hR (hR.mapFlags (fun f => { f with odd := isOdd _ }) (hR.setReg rd _ h))

/-! ### Every command -/

/-- Every command keeps a compatible relation; the secret has to be the same only for the two commands that read it. -/
theorem sim_exec (i : Instr) (hsecret : searches i = true → s'.key.secret = s.key.secret) :
    Sim R (exec i s) (exec i s') := by
  cases i with
  | nop => exact sim_complete hR h
  | mov rd ra =>
    simp only [exec, execMov, hR.reg h]
    exact sim_complete hR (hR.setReg rd _ h)
  | ldi rd imm => exact sim_complete hR (hR.setReg rd _ h)
  | zeroize => exact sim_complete hR (hR.zeroize h)
  | fadd m rd ra rb => exact sim_binaryField hR h ..
  | fsub m rd ra rb => exact sim_binaryField hR h ..
  | fmul m rd ra rb => exact sim_binaryField hR h ..
  | fpow m neg rd ra rb =>
    simp only [exec, execFpow, hR.inRange h, hR.num h]
    exact sim_ite (sim_completeResult hR h ..) (sim_raiseError hR h _)
  | finv m rd ra =>
    simp only [exec, execFinv, hR.inRange h, hR.num h]
    exact sim_ite (sim_ite (sim_raiseFatal hR h _)
      (sim_complete hR (hR.mapFlags (fun f => { f with z := false }) (hR.setReg rd _ h)))) (sim_raiseError hR h _)
  | fdiv m rd ra rb =>
    simp only [exec, execFdiv, hR.inRange h, hR.num h]
    exact sim_ite (sim_ite (sim_raiseFatal hR h _) (sim_completeResult hR h ..)) (sim_raiseError hR h _)
  | mred m rd rb =>
    simp only [exec, execMred, hR.num h]
    exact sim_completeResult hR h ..
  | mredW m rd ra rb =>
    simp only [exec, execMredW, hR.num h]
    exact sim_completeResult hR h ..
  | mull rd ra rb =>
    simp only [exec, execMull, hR.num h]
    exact sim_completeResult hR h ..
  | mulh rd ra rb =>
    simp only [exec, execMulh, hR.num h]
    exact sim_completeResult hR h ..
  | pset pd ra rb =>
    simp only [exec, execPset, hR.inRange h, hR.num h, hR.reg h]
    exact sim_ite (sim_ite (sim_complete_point hR h ..) (sim_raiseError hR h _)) (sim_raiseError hR h _)
  | pinf pd => exact sim_complete_point hR h ..
  | pmov pd pa =>
    simp only [exec, execPmov, hR.point h]
    exact sim_complete_point hR h ..
  | padd pd pa pb =>
    simp only [exec, execPadd, hR.point h]
    exact sim_complete_point hR h ..
  | pmul pd pa rb =>
    simp only [exec, execPmul, hR.point h, hR.num h]
    exact sim_complete_point hR h ..
  | pgetx rd pa => exact sim_readCoordinate hR h ..
  | pgety rd pa => exact sim_readCoordinate hR h ..
  | peq pa pb =>
    simp only [exec, execPeq, hR.point h]
    exact sim_complete hR (hR.mapFlags (fun f => { f with eq := pointEq (s.point pa) (s.point pb) }) h)
  | pldg pd => exact sim_complete_point hR h ..
  | pdec odd pd ra =>
    simp only [exec, execPdec, hR.inRange h, hR.num h]
    refine sim_ite ?_ (sim_raiseError hR h _)
    split
    · exact sim_raiseError hR h _
    · exact sim_complete_point hR h ..
  | keyload ra =>
    simp only [exec, execKeyload, hR.num h, hR.reg h]
    exact sim_ite (sim_raiseError hR h _) (sim_complete hR (hR.setKey _ h))
  | keypub pd =>
    simp only [exec, execKeypub, hR.keyValid h, hR.keyPub h]
    exact sim_ite (sim_complete_point hR h ..) (sim_raiseError hR h _)
  | keyclr => exact sim_complete hR (hR.setKey _ h)
  | kgen rd ra =>
    simp only [exec, execKgen, hR.keyValid h, hR.num h, hR.tries h, hsecret rfl]
    exact sim_ite (sim_ite (sim_complete hR (hR.setReg rd _ h)) (sim_nextCandidate hR h)) (sim_raiseError hR h _)
  | sign rd re ra =>
    simp only [exec, execSign, hR.keyValid h, hR.num h, hR.tries h, hsecret rfl]
    refine sim_ite ?_ (sim_raiseError hR h _)
    split
    · exact sim_nextCandidate hR h
    · exact sim_complete hR (hR.setReg re _ (hR.setReg rd _ h))
  | verify pa ra rb rc =>
    simp only [exec, execVerify, hR.point h, hR.num h]
    exact sim_complete hR (hR.mapFlags (fun f => { f with v := _ }) h)

end

/-! ## States that differ in interrupt bits, schedule and reply (R309) -/

theorem compatible_sameCore : Compatible SameCore where
  regs h := h.data.regs
  points h := h.data.points
  keyValid h := by rw [h.data.key]
  keyPub h := by rw [h.data.key]
  tries h := h.nonceTry
  setReg i v h := by
    obtain ⟨⟨hregs, hpoints, hkey, hflags⟩, hcmd, hbusy, hdone, herr, hfatal, hcode, htries⟩ := h
    exact ⟨⟨by simp [hregs], hpoints, hkey, hflags⟩, hcmd, hbusy, hdone, herr, hfatal, hcode, htries⟩
  setPoint i v h := by
    obtain ⟨⟨hregs, hpoints, hkey, hflags⟩, hcmd, hbusy, hdone, herr, hfatal, hcode, htries⟩ := h
    exact ⟨⟨hregs, by simp [hpoints], hkey, hflags⟩, hcmd, hbusy, hdone, herr, hfatal, hcode, htries⟩
  setKey k h := ⟨⟨h.data.regs, h.data.points, rfl, h.data.flags⟩, h.cmd, h.busy, h.done, h.err, h.fatal, h.code,
    h.nonceTry⟩
  mapFlags f h := ⟨⟨h.data.regs, h.data.points, h.data.key, congrArg f h.data.flags⟩, h.cmd, h.busy, h.done, h.err,
    h.fatal, h.code, h.nonceTry⟩
  zeroize h := ⟨⟨rfl, rfl, rfl, rfl⟩, h.cmd, h.busy, h.done, h.err, h.fatal, h.code, h.nonceTry⟩
  completeOk h := ⟨⟨h.data.regs, h.data.points, h.data.key, h.data.flags⟩, h.cmd, rfl, rfl, h.err, h.fatal, h.code, rfl⟩
  completeError c h := ⟨⟨h.data.regs, h.data.points, h.data.key, h.data.flags⟩, h.cmd, rfl, rfl, rfl, h.fatal, rfl, rfl⟩
  enterFatal c h := ⟨⟨h.data.regs, h.data.points, h.data.key, h.data.flags⟩, h.cmd, rfl, rfl, rfl, rfl, rfl, rfl⟩
  nextTry h := ⟨⟨h.data.regs, h.data.points, h.data.key, h.data.flags⟩, h.cmd, h.busy, h.done, h.err, h.fatal, h.code,
    congrArg (· + 1) h.nonceTry⟩

/-! ## States that differ in the secret alone (R26) -/

/-- `s'` is `s` with some other secret, or the same. -/
def SameButSecret (s s' : State) : Prop := ∃ d, s' = s.withSecret d

theorem compatible_sameButSecret : Compatible SameButSecret where
  regs := by rintro s _ ⟨d, rfl⟩; rfl
  points := by rintro s _ ⟨d, rfl⟩; rfl
  keyValid := by rintro s _ ⟨d, rfl⟩; rfl
  keyPub := by rintro s _ ⟨d, rfl⟩; rfl
  tries := by rintro s _ ⟨d, rfl⟩; rfl
  setReg := by rintro s _ i v ⟨d, rfl⟩; exact ⟨d, rfl⟩
  setPoint := by rintro s _ i v ⟨d, rfl⟩; exact ⟨d, rfl⟩
  setKey := by rintro s _ k ⟨d, rfl⟩; exact ⟨k.secret, rfl⟩
  mapFlags := by rintro s _ f ⟨d, rfl⟩; exact ⟨d, rfl⟩
  zeroize := by rintro s _ ⟨d, rfl⟩; exact ⟨0, rfl⟩
  completeOk := by rintro s _ ⟨d, rfl⟩; exact ⟨d, rfl⟩
  completeError := by rintro s _ c ⟨d, rfl⟩; exact ⟨d, rfl⟩
  enterFatal := by rintro s _ c ⟨d, rfl⟩; exact ⟨d, rfl⟩
  nextTry := by rintro s _ ⟨d, rfl⟩; exact ⟨d, rfl⟩

/-- The same states, the one secret or the other, with the answer kept for the host. -/
theorem SameButSecret.answered {r : Reply} {s s' : State} (h : SameButSecret s s') :
    Sim SameButSecret (answered (r, s)) (answered (r, s')) := by
  obtain ⟨d, rfl⟩ := h
  exact ⟨_, _, rfl, rfl, d, rfl⟩

section
variable (off size : Nat) (v : Word32) (s : State) (d : Word256)

/-- No location of the window shows the secret (R61, R62). -/
theorem windowWord_withSecret : windowWord (s.withSecret d) off = windowWord s off := rfl

theorem memRead_withSecret :
    memRead off size (s.withSecret d) = ((memRead off size s).1, (memRead off size s).2.withSecret d) := by
  rw [memRead, memRead, windowWord_withSecret, show (s.withSecret d).owned = s.owned from rfl]
  split_ifs <;> rfl

theorem sameButSecret_writeWindow : SameButSecret (writeWindow off v s) (writeWindow off v (s.withSecret d)) := by
  rw [writeWindow, writeWindow, show (s.withSecret d).owned = s.owned from rfl]
  split_ifs
  · exact ⟨0, rfl⟩
  all_goals exact ⟨d, rfl⟩

theorem sim_memRead :
    Sim SameButSecret (answered (memRead off size s)) (answered (memRead off size (s.withSecret d))) := by
  rw [memRead_withSecret]
  exact SameButSecret.answered ⟨d, rfl⟩

theorem sim_memWrite :
    Sim SameButSecret (answered (memWrite off size v s)) (answered (memWrite off size v (s.withSecret d))) := by
  rw [memWrite, memWrite]
  split
  · exact (sameButSecret_writeWindow off v s d).answered
  · exact SameButSecret.answered ⟨d, rfl⟩

end

/-- The host learns nothing of the secret (R26). -/
theorem sim_runEvent {e : Event} (he : e ≠ .engine) (s : State) (d : Word256) :
    Sim SameButSecret (runEvent e s) (runEvent e (s.withSecret d)) := by
  cases e with
  | read off size => exact sim_memRead off size s d
  | write off size v => exact sim_memWrite off size v s d
  | busRead addr size =>
    simp only [runEvent, busRead]
    split
    · exact sim_memRead _ size s d
    · exact SameButSecret.answered ⟨d, rfl⟩
  | busWrite addr size v =>
    simp only [runEvent, busWrite]
    split
    · exact sim_memWrite _ size v s d
    · exact SameButSecret.answered ⟨d, rfl⟩
  | hardReset => exact ⟨_, _, rfl, rfl, 0, rfl⟩
  | engine => exact absurd rfl he

/-- The engine's turn reads the secret only for a running `KGEN` or `SIGN` (R26). -/
theorem sim_engineTurn {s : State} (d : Word256)
    (h : s.busy = true → ∀ i, decode s.cmd = .ok i → searches i = false) :
    Sim SameButSecret (engineTurn s) (engineTurn (s.withSecret d)) := by
  have hrel : SameButSecret s (s.withSecret d) := ⟨d, rfl⟩
  cases hbusy : s.busy with
  | false =>
    rw [engineTurn_of_idle hbusy, engineTurn_of_idle (s := s.withSecret d) hbusy]
    exact ⟨_, _, rfl, rfl, hrel⟩
  | true =>
    cases hdecode : decode s.cmd with
    | error e =>
      rw [engineTurn_of_decode_error hbusy hdecode, engineTurn_of_decode_error (s := s.withSecret d) hbusy hdecode]
      exact sim_raiseError compatible_sameButSecret hrel _
    | ok i =>
      rw [engineTurn_of_decode_ok hbusy hdecode, engineTurn_of_decode_ok (s := s.withSecret d) hbusy hdecode]
      exact sim_exec compatible_sameButSecret hrel i fun hi => by simp [h hbusy i hdecode] at hi

/-- A step that is not the engine's turn on `KGEN` or `SIGN` does not depend on the secret. -/
theorem sim_step {s : State} (d : Word256)
    (h : s.busy = true → s.engineNext → ∀ i, decode s.cmd = .ok i → searches i = false) :
    Sim SameButSecret (step s) (step (s.withSecret d)) := by
  cases hs : s.schedule with
  | nil =>
    rw [step_nil hs, step_nil (s := s.withSecret d) hs]
    exact sim_engineTurn d fun hbusy => h hbusy (.inl hs)
  | cons e rest =>
    rw [step_cons hs, step_cons (s := s.withSecret d) hs]
    by_cases he : e = .engine
    · subst he
      exact sim_engineTurn (s := { s with schedule := rest }) d fun hbusy => h hbusy (.inr ⟨rest, hs⟩)
    · exact sim_runEvent he { s with schedule := rest } d

/-! ## The obligations -/

/-- Settles O17: `SameCore` is a relation that every command keeps. -/
theorem commandIgnoresInterruptState : Obligations.CommandIgnoresInterruptState := fun i _ _ _ hsame h =>
  (sim_exec compatible_sameCore hsame i fun _ => by rw [hsame.data.key]).exists_next h

/-- Settles O60: `SameButSecret` is kept by every command but the two that search for a nonce, and the host's port has
no way to the secret. -/
theorem secretHasNoOtherReader : Obligations.SecretHasNoOtherReader := by
  intro s t d hsearch h
  obtain ⟨_, ht', d', rfl⟩ := (sim_step d hsearch).exists_next h
  exact ⟨_, ht', rfl⟩

end Sys2Proof.Machine
end

section
/-! SUPPORT. What no command changes (R22, R25, R26), said once over all commands (`exec_dataFrame`); from it the bytes
of the window that stay, and the invariant of the reachable states (R24, R26, R33). -/

namespace Sys2Proof.Machine

/-! ## The frame of the data -/

/-- `i` went from `s` to `t` and changed no register, point register and key slot but those it writes. -/
structure DataFrame (i : Instr) (s t : State) : Prop where
  regs : ∀ r, r ∉ regDests i → t.reg r = s.reg r
  points : ∀ q, q ∉ pointDests i → t.point q = s.point q
  key : writesKey i = false → t.key = s.key

theorem Answers.of_eq_next {o : Result} {Q : State → Prop} {t : State} (ho : Answers o Q) (h : o = .next t) : Q t := by
  obtain ⟨u, hu, hq⟩ := ho
  cases h.symm.trans hu
  exact hq

section
variable {i : Instr} {s : State}

/-- An end that writes no data: an error, the fatal state, a candidate passed over, or a success that writes flags. -/
theorem dataFrame_same {t : State} (hregs : t.regs = s.regs := by rfl) (hpoints : t.points = s.points := by rfl)
    (hkey : t.key = s.key := by rfl) : Answers (.next t) (DataFrame i s) :=
  ⟨t, rfl, fun r _ => reg_congr hregs r, fun q _ => point_congr hpoints q, fun _ => hkey⟩

/-- The end of a command that writes a register, and perhaps flags. -/
theorem dataFrame_setReg {rd : Reg} {v : Word256} {t : State} (hrd : rd ∈ regDests i)
    (hregs : t.regs = (s.setReg rd v).regs := by rfl) (hpoints : t.points = s.points := by rfl)
    (hkey : t.key = s.key := by rfl) : Answers (.next t) (DataFrame i s) := by
  refine ⟨t, rfl, fun r hr => ?_, fun q _ => point_congr hpoints q, fun _ => hkey⟩
  rw [reg_congr hregs, setReg_reg_ne s v (ne_of_mem_of_not_mem hrd hr).symm]

/-- The end of a command that writes a point register and `INF`. -/
theorem dataFrame_setPoint {pd : PReg} {v : Point} {b : Bool} (hpd : pd ∈ pointDests i) :
    Answers (complete ((s.setPoint pd v).setInf b)) (DataFrame i s) :=
  ⟨_, rfl, fun _ _ => rfl, fun _ hq => setPoint_point_ne s v (ne_of_mem_of_not_mem hpd hq).symm, fun _ => rfl⟩

/-- The end of a command that writes the key slot. -/
theorem dataFrame_setKey {k : KeySlot} (hi : writesKey i = true) : Answers (complete (s.setKey k)) (DataFrame i s) :=
  ⟨_, rfl, fun _ _ => rfl, fun _ _ => rfl, fun hno => by simp [hi] at hno⟩

theorem dataFrame_binaryField (f : Nat → Nat → Nat → Nat) (m : Modulus) {rd : Reg} (ra rb : Reg)
    (hrd : rd ∈ regDests i) : Answers (binaryField f m rd ra rb s) (DataFrame i s) :=
  answers_ite (dataFrame_setReg hrd) dataFrame_same

theorem dataFrame_readCoordinate (coord : Word256 → Word256 → Word256) {rd : Reg} (pa : PReg)
    (hrd : rd ∈ regDests i) : Answers (readCoordinate coord rd pa s) (DataFrame i s) := by
  rw [readCoordinate]
  split
  · exact dataFrame_same
  · exact dataFrame_setReg hrd

end

/-- What no command changes. -/
theorem exec_dataFrame (i : Instr) (s : State) : Answers (exec i s) (DataFrame i s) := by
  cases i with
  | nop => exact dataFrame_same
  | mov rd ra => exact dataFrame_setReg List.mem_cons_self
  | ldi rd imm => exact dataFrame_setReg List.mem_cons_self
  | zeroize =>
    exact ⟨_, rfl, fun r hr => absurd (List.mem_finRange r) hr, fun q hq => absurd (List.mem_finRange q) hq, nofun⟩
  | fadd m rd ra rb => exact dataFrame_binaryField _ m ra rb List.mem_cons_self
  | fsub m rd ra rb => exact dataFrame_binaryField _ m ra rb List.mem_cons_self
  | fmul m rd ra rb => exact dataFrame_binaryField _ m ra rb List.mem_cons_self
  | fpow m neg rd ra rb => exact answers_ite (dataFrame_setReg List.mem_cons_self) dataFrame_same
  | finv m rd ra =>
    exact answers_ite (answers_ite dataFrame_same (dataFrame_setReg List.mem_cons_self)) dataFrame_same
  | fdiv m rd ra rb =>
    exact answers_ite (answers_ite dataFrame_same (dataFrame_setReg List.mem_cons_self)) dataFrame_same
  | mred m rd rb => exact dataFrame_setReg List.mem_cons_self
  | mredW m rd ra rb => exact dataFrame_setReg List.mem_cons_self
  | mull rd ra rb => exact dataFrame_setReg List.mem_cons_self
  | mulh rd ra rb => exact dataFrame_setReg List.mem_cons_self
  | pset pd ra rb =>
    exact answers_ite (answers_ite (dataFrame_setPoint List.mem_cons_self) dataFrame_same) dataFrame_same
  | pinf pd => exact dataFrame_setPoint List.mem_cons_self
  | pmov pd pa => exact dataFrame_setPoint List.mem_cons_self
  | padd pd pa pb => exact dataFrame_setPoint List.mem_cons_self
  | pmul pd pa rb => exact dataFrame_setPoint List.mem_cons_self
  | pgetx rd pa => exact dataFrame_readCoordinate _ pa List.mem_cons_self
  | pgety rd pa => exact dataFrame_readCoordinate _ pa List.mem_cons_self
  | peq pa pb => exact dataFrame_same
  | pldg pd => exact dataFrame_setPoint List.mem_cons_self
  | pdec odd pd ra =>
    refine answers_ite ?_ dataFrame_same
    split
    · exact dataFrame_same
    · exact dataFrame_setPoint List.mem_cons_self
  | keyload ra => exact answers_ite dataFrame_same (dataFrame_setKey rfl)
  | keypub pd => exact answers_ite (dataFrame_setPoint List.mem_cons_self) dataFrame_same
  | keyclr => exact dataFrame_setKey rfl
  | kgen rd ra =>
    exact answers_ite (answers_ite (dataFrame_setReg List.mem_cons_self) dataFrame_same) dataFrame_same
  | sign rd re ra =>
    refine answers_ite ?_ dataFrame_same
    split
    · exact dataFrame_same
    · refine ⟨_, rfl, fun r hr => ?_, fun _ _ => rfl, fun _ => rfl⟩
      obtain ⟨hrd, hre⟩ : r ≠ rd ∧ r ≠ re := by simpa [regDests] using hr
      exact (setReg_reg_ne _ _ hre).trans (setReg_reg_ne s _ hrd)
  | verify pa ra rb rc => exact dataFrame_same

theorem dataFrame_of_exec {i : Instr} {s t : State} (h : exec i s = .next t) : DataFrame i s t :=
  (exec_dataFrame i s).of_eq_next h

/-- No command touches the word in `CMD`, `IEN`, the events still to come and the port's last answer. -/
theorem Ending.keeps_shell {codes : List Code} {s t : State} (h : Ending codes s t) :
    t.cmd = s.cmd ∧ t.ien = s.ien ∧ t.schedule = s.schedule ∧ t.reply = s.reply := by
  cases h with
  | success ok => exact ⟨ok.cmd, ok.ien, ok.schedule, ok.reply⟩
  | error _ _ _ failed => exact ⟨failed.cmd, failed.ien, failed.schedule, failed.reply⟩
  | fatal _ died => exact ⟨died.cmd, died.ien, died.schedule, died.reply⟩
  | running same => simp [same]

/-! ## The bytes of the window that stay (R61, R65) -/

section
variable {s t : State} {b : Nat}

/-- Below the register file the window shows `STATUS`, `ISTAT`, `CMD`, `IEN` and constants. -/
theorem windowByte_low_congr (hcmd : t.cmd = s.cmd) (hien : t.ien = s.ien) (hlow : b < 0x200)
    (hstatus : ¬ (0x008 ≤ b ∧ b < 0x00C)) (histat : ¬ (0x014 ≤ b ∧ b < 0x018)) : windowByte t b = windowByte s b := by
  have h8 : b - b % 4 ≠ 0x008 := by omega
  have h14 : b - b % 4 ≠ 0x014 := by omega
  have hlt : b - b % 4 < 0x200 := by omega
  simp only [windowByte, windowWord, if_neg h8, if_neg h14, if_pos hlt, hcmd, hien]

theorem imageReg_of_aligned (hfile : 0x200 ≤ b) : imageReg (b - b % 4) = imageReg b := by
  rw [imageReg, imageReg, show (b - b % 4 - 0x200) / 0x20 = (b - 0x200) / 0x20 by omega]

/-- In the register file the window shows the register of the image. -/
theorem windowByte_file_congr (hfile : 0x200 ≤ b) (hreg : t.reg (imageReg b) = s.reg (imageReg b)) :
    windowByte t b = windowByte s b := by
  have hword : ∀ u : State,
      windowWord u (b - b % 4) = wordOf (u.reg (imageReg (b - b % 4))) (imageWord (b - b % 4)) := by
    intro u
    unfold windowWord
    iterate 7 rw [if_neg (by omega)]
  rw [windowByte, windowByte, hword, hword, imageReg_of_aligned hfile, hreg]

end

/-! ## The points and the key slot (R24, R26) -/

theorem valid_scalarMul {k : Nat} {pt : Point} (hk : k < 2 ^ 256) (h : pt.valid Config.curve = true) :
    (scalarMul Config.curve k pt).valid Config.curve = true := by
  have : Fact (Nat.Prime Config.curve.p) := ⟨p_prime⟩
  obtain ⟨q, hq⟩ := exists_standsFor h
  exact (standsFor_scalarMul hk hq).valid

theorem valid_affineNat {x y : Nat} (hx : x < Config.curve.p) (hy : y < Config.curve.p)
    (hon : onCurve Config.curve x y = true) : (affineNat x y).valid Config.curve = true := by
  simp [affineNat, Point.valid, toNat_ofNat_of_lt_p, hx, hy, hon, -BitVec.toNat_ofNat]

theorem valid_of_decompress {x : Nat} {odd : Bool} {pt : Point} (hx : x < Config.curve.p)
    (h : decompress Config.curve x odd = some pt) : pt.valid Config.curve = true := by
  simp only [decompress] at h
  split at h
  · next hon =>
    cases h
    exact valid_affineNat hx (rootOfParity_lt ..) hon
  · cases h

/-- A valid key slot holds the public point of its secret (R26). -/
theorem KeySlot.ok.eq_keyOf {k : KeySlot} (h : k.ok) (hvalid : k.valid = true) :
    0 < k.secret.toNat ∧ k.secret.toNat < Config.curve.n ∧ k = keyOf Config.curve k.secret := by
  rcases h with rfl | h
  · cases hvalid
  · exact h

theorem KeySlot.ok.valid_pub {k : KeySlot} (h : k.ok) (hvalid : k.valid = true) : k.pub.valid Config.curve = true := by
  obtain ⟨-, -, heq⟩ := h.eq_keyOf hvalid
  rw [heq, keyOf_pub]
  exact valid_scalarMul k.secret.isLt generator_valid

/-- Every point register holds a valid point. -/
def State.PointsValid (s : State) : Prop := ∀ q, (s.point q).valid Config.curve = true

section
variable {s : State}

theorem pointsValid_setPoint {pd : PReg} {v : Point} {b : Bool} (hs : s.PointsValid)
    (hv : v.valid Config.curve = true) : Answers (complete ((s.setPoint pd v).setInf b)) State.PointsValid := by
  refine ⟨_, rfl, fun q => ?_⟩
  show ((s.setPoint pd v).point q).valid Config.curve = true
  rw [setPoint_point]
  split
  · exact hv
  · exact hs q

theorem pointsValid_raiseError (hs : s.PointsValid) (c : Code) : Answers (raiseError c s) State.PointsValid :=
  ⟨_, rfl, hs⟩

end

/-- Every command leaves valid points: what it writes is `Infinity`, a point checked, a copy, a sum or a multiple. -/
theorem exec_pointsValid {i : Instr} {s : State} (hs : s.PointsValid) (hkey : s.key.ok) :
    Answers (exec i s) State.PointsValid := by
  cases i with
  | zeroize =>
    refine ⟨_, rfl, fun q => ?_⟩
    show ((zeroizeData s).point q).valid Config.curve = true
    rw [zeroizeData_point]
    rfl
  | pset pd ra rb =>
    simp only [exec, execPset]
    split_ifs with hrange hon
    · obtain ⟨hx, hy⟩ := (inRange_two ..).mp hrange
      exact pointsValid_setPoint hs ((valid_affine_iff _ _).mpr ⟨hx, hy, (onCurve_iff_nonsingular ..).mp hon⟩)
    · exact pointsValid_raiseError hs _
    · exact pointsValid_raiseError hs _
  | pinf pd => exact pointsValid_setPoint hs rfl
  | pmov pd pa => exact pointsValid_setPoint hs (hs pa)
  | padd pd pa pb => exact pointsValid_setPoint hs (valid_pointAdd (hs pa) (hs pb))
  | pmul pd pa rb => exact pointsValid_setPoint hs (valid_scalarMul (num_lt s rb) (hs pa))
  | pldg pd => exact pointsValid_setPoint hs generator_valid
  | pdec odd pd ra =>
    simp only [exec, execPdec]
    split_ifs with hrange
    · split
      · exact pointsValid_raiseError hs _
      · next hpoint => exact pointsValid_setPoint hs (valid_of_decompress ((inRange_one ..).mp hrange) hpoint)
    · exact pointsValid_raiseError hs _
  | keypub pd =>
    simp only [exec, execKeypub]
    split_ifs with hvalid
    · exact pointsValid_setPoint hs (hkey.valid_pub hvalid)
    · exact pointsValid_raiseError hs _
  | _ =>
    obtain ⟨t, h, frame⟩ := exec_dataFrame _ s
    exact ⟨t, h, fun q => by rw [frame.points q List.not_mem_nil]; exact hs q⟩

/-- Every command leaves the fields of the key slot belonging together. -/
theorem exec_keyOk {i : Instr} {s : State} (hkey : s.key.ok) : Answers (exec i s) fun t => t.key.ok := by
  cases i with
  | zeroize => exact ⟨_, rfl, .inl rfl⟩
  | keyload ra =>
    simp only [exec, execKeyload]
    split_ifs with hrange
    · exact ⟨_, rfl, hkey⟩
    · obtain ⟨h0, hn⟩ := not_or.mp hrange
      exact ⟨_, rfl, .inr ⟨Nat.pos_of_ne_zero h0, Nat.lt_of_not_le hn, rfl⟩⟩
  | keyclr => exact ⟨_, rfl, .inl rfl⟩
  | _ =>
    obtain ⟨t, h, frame⟩ := exec_dataFrame _ s
    exact ⟨t, h, (congrArg KeySlot.ok (frame.key rfl)).mpr hkey⟩

/-! ## The invariant -/

theorem reset_inv : State.reset.Inv where
  points q := by
    rw [reset_point]
    rfl
  key := .inl rfl
  status := .inr (.inl ⟨rfl, rfl, rfl, rfl⟩)
  tries _ := rfl

/-- In a busy state the other progress fields are as the accept left them. -/
theorem State.statusOk.of_busy {s : State} (h : s.statusOk) (hs : s.busy = true) :
    s.done = false ∧ s.err = false ∧ s.fatal = false ∧ s.code = .none := by
  obtain ⟨-, h⟩ | ⟨hidle, -⟩ | ⟨hidle, -⟩ | ⟨hidle, -⟩ := h
  · exact h
  all_goals simp [hs] at hidle

/-- In a state that is not engine-owned no code is fatal. -/
theorem fatal_of_free {s : State} (h : s.owned = false) : s.fatal = false := by
  rw [State.owned, Bool.or_eq_false_iff] at h
  exact h.right

section
variable {s t : State}

/-- The progress fields agree after the engine's turn, whichever way the command ends. -/
theorem status_tries_of_turn (hs : s.busy = true) (hstatus : s.statusOk) (h : TurnCase s t) :
    t.statusOk ∧ (t.busy = false → t.nonceTry = 0) := by
  obtain ⟨-, herr, hfatal, hcode⟩ := hstatus.of_busy hs
  cases h with
  | success ok =>
    exact ⟨.inr (.inl ⟨ok.busy, ok.err.trans herr, ok.fatal.trans hfatal, ok.code.trans hcode⟩), fun _ => ok.nonceTry⟩
  | error c recoverable failed =>
    exact ⟨.inr (.inr (.inl ⟨failed.busy, failed.done, failed.err, failed.fatal.trans hfatal,
      failed.code.symm ▸ recoverable⟩)), fun _ => failed.nonceTry⟩
  | fatal died =>
    exact ⟨.inr (.inr (.inr ⟨died.busy, died.done, died.err, died.fatal, died.code⟩)), fun _ => died.nonceTry⟩
  | running i word search same =>
    subst same
    exact ⟨hstatus, fun hidle => by simp [hs] at hidle⟩

theorem inv_of_engineTurn (hinv : s.Inv) (h : engineTurn s = .next t) : t.Inv := by
  cases hs : s.busy with
  | false =>
    cases h.symm.trans (engineTurn_of_idle hs)
    exact hinv
  | true =>
    obtain ⟨hstatus, htries⟩ := status_tries_of_turn hs hinv.status (turn_cases hs h)
    cases hdecode : decode s.cmd with
    | error e =>
      cases h.symm.trans (engineTurn_of_decode_error hs hdecode)
      exact ⟨hinv.points, hinv.key, hstatus, htries⟩
    | ok i =>
      have hexec := (engineTurn_of_decode_ok hs hdecode).symm.trans h
      exact ⟨(exec_pointsValid hinv.points hinv.key).of_eq_next hexec, (exec_keyOk hinv.key).of_eq_next hexec,
        hstatus, htries⟩

theorem inv_of_runEvent {e : Event} (he : e ≠ .engine) (hinv : s.Inv) (h : runEvent e s = .next t) : t.Inv := by
  cases runEvent_cases e s he with
  | reset r h' =>
    cases h.symm.trans h'
    exact ⟨reset_inv.points, reset_inv.key, reset_inv.status, reset_inv.tries⟩
  | accepted v h' event free =>
    cases h.symm.trans h'
    exact ⟨hinv.points, hinv.key, .inl ⟨rfl, rfl, rfl, fatal_of_free (s := s) free, rfl⟩, nofun⟩
  | quiet _ h' | refused _ h' | enable _ h' | clear _ h' | image _ _ h' =>
    cases h.symm.trans h'
    exact ⟨hinv.points, hinv.key, hinv.status, hinv.tries⟩

theorem inv_of_step (hinv : s.Inv) (h : step s = .next t) : t.Inv := by
  have htaken : s.eventTaken.Inv := ⟨hinv.points, hinv.key, hinv.status, hinv.tries⟩
  rcases step_eq s with ⟨-, hturn⟩ | ⟨e, -, he, -, hevent⟩
  · exact inv_of_engineTurn htaken (hturn.symm.trans h)
  · exact inv_of_runEvent he htaken (hevent.symm.trans h)

end

/-! ## The obligations -/

/-- Settles O14: the data by `exec_dataFrame`, the rest of the state by the ending of the command. -/
theorem commandFrame : Obligations.CommandFrame := by
  intro i s t h
  have frame := dataFrame_of_exec h
  obtain ⟨hcmd, hien, hschedule, hreply⟩ := (ending_of_exec h).keeps_shell
  exact ⟨frame.regs, frame.points, frame.key, hcmd, hien, hschedule, hreply,
    fun b hlow hstatus histat => windowByte_low_congr hcmd hien hlow hstatus histat,
    fun b hfile _ hb => windowByte_file_congr hfile (frame.regs _ hb)⟩

/-- Settles O58: no point, no key, no command. -/
theorem resetMeetsInv : Obligations.ResetMeetsInv := reset_inv

/-- Settles O59: the engine's turn by the laws of all commands, the events of the host by their inversion lemma. -/
theorem stepKeepsInv : Obligations.StepKeepsInv := fun _ _ => inv_of_step

end Sys2Proof.Machine
end

section
/-! SUPPORT. Single steps of the machine by the event that is next (R74, R302), the window by bus address (R72), the
fields of `STATUS` (R33), and the host's register scripts as runs of steps (R102). -/

namespace Sys2Proof.Machine

/-! ## Steps by their event -/

theorem decode_of_decodeTableWord {nbits w : Nat} {i : Instr} (h : decodeTableWord nbits w = some i) :
    decode (BitVec.ofNat 32 (w % 2 ^ nbits)) = .ok i := by
  rw [decodeTableWord] at h
  split at h
  · next hdecode =>
    cases h
    exact hdecode
  · cases h

/-- With the engine next, an idle block changes nothing but the schedule. -/
theorem step_engine {s : State} {rest : List Event} (hs : s.schedule = .engine :: rest) :
    step s = engineTurn { s with schedule := rest } := by
  rw [step_cons hs]
  rfl

/-- The word placed by `withFetchWord` is run from the state right after its accept (log entry 1). -/
theorem step_withFetchWord (s : State) (nbits w : Nat) :
    step (s.withFetchWord nbits w) = engineTurn (accept (BitVec.ofNat 32 (w % 2 ^ nbits)) s) :=
  step_engine (s := s.withFetchWord nbits w) rfl

/-- A run of `k` steps and one step more. -/
theorem runSteps_succ_last {k : Nat} {s t u : State} (h : runSteps k s = .next t) (hstep : step t = .next u) :
    runSteps (k + 1) s = .next u := by
  induction k generalizing s with
  | zero =>
    cases h
    exact runSteps_succ 0 hstep
  | succ k ih =>
    obtain ⟨v, hv⟩ := step_next s
    rw [runSteps_succ k hv] at h
    rw [runSteps_succ (k + 1) hv]
    exact ih h

/-! ## The window by bus address (R72) -/

theorem busOffset_outside {addr : Nat} (h : addr < Config.base ∨ Config.base + 0x400 ≤ addr) :
    busOffset addr = none := by
  rw [busOffset, if_neg (by omega)]

/-! ## The fields of `STATUS` (R33) -/

/-- Every bit of `STATUS`. -/
theorem statusWord_getLsbD (s : State) (k : Nat) : s.statusWord.getLsbD k =
    if k = 0 then s.busy else if k = 1 then s.done else if k = 2 then s.err else if k = 3 then s.fatal
    else if k < 8 then false else if k < 16 then s.code.toByte.getLsbD (k - 8)
    else if k = 16 then s.flags.z else if k = 17 then s.flags.inf else if k = 18 then s.flags.odd
    else if k = 19 then s.flags.eq else if k = 20 then s.flags.v else if k = 21 then s.key.valid else false := by
  simp only [State.statusWord, BitVec.getLsbD_append, BitVec.getLsbD_ofBool, BitVec.getLsbD_zero, Nat.sub_sub]
  obtain hk | hk := Nat.lt_or_ge k 22
  · interval_cases k <;> rfl
  · iterate 24 rw [if_neg (by omega)]

section
variable (s : State)

theorem statusWord_code : s.statusWord.extractLsb' 8 8 = s.code.toByte := by
  apply BitVec.eq_of_getLsbD_eq
  intro k hk
  rw [BitVec.getLsbD_extractLsb', statusWord_getLsbD]
  iterate 5 rw [if_neg (by omega)]
  rw [if_pos (by omega), Nat.add_sub_cancel_left, decide_eq_true hk, Bool.true_and]

theorem statusWord_reserved_low : s.statusWord.extractLsb' 4 4 = 0 := by
  apply BitVec.eq_of_getLsbD_eq
  intro k hk
  rw [BitVec.getLsbD_extractLsb', statusWord_getLsbD]
  iterate 4 rw [if_neg (by omega)]
  rw [if_pos (by omega), Bool.and_false]
  exact BitVec.getLsbD_zero.symm

theorem statusWord_reserved_high : s.statusWord.extractLsb' 22 10 = 0 := by
  apply BitVec.eq_of_getLsbD_eq
  intro k hk
  rw [BitVec.getLsbD_extractLsb', statusWord_getLsbD]
  iterate 12 rw [if_neg (by omega)]
  rw [Bool.and_false]
  exact BitVec.getLsbD_zero.symm

end

/-! ## The register scripts (R102) -/

theorem drop_scriptSetr (i : Reg) (v : Word256) {k : Nat} (hk : k < 8) : (scriptSetr i v).drop k =
    .write (imageOffset i k) 4 (wordOf v k) :: (scriptSetr i v).drop (k + 1) := by
  rw [List.drop_eq_getElem_cons (by simpa [scriptSetr] using hk)]
  simp [scriptSetr]

theorem drop_scriptGetr (i : Reg) {k : Nat} (hk : k < 8) :
    (scriptGetr i).drop k = .read (imageOffset i k) 4 :: (scriptGetr i).drop (k + 1) := by
  rw [List.drop_eq_getElem_cons (by simpa [scriptGetr] using hk)]
  simp [scriptGetr]

section
variable {s : State} {i : Reg} {v : Word256} {rest : List Event} {k : Nat} (ho : s.owned = false) (hk : k < 8)
include ho hk

/-- The write of word `k` by `SETR`. -/
theorem step_scriptSetr (hs : s.schedule = (scriptSetr i v).drop k ++ rest) : step s = .next
    { s.setReg i (setWord (s.reg i) k (wordOf v k)) with
      schedule := (scriptSetr i v).drop (k + 1) ++ rest, reply := some .ok } := by
  rw [drop_scriptSetr i v hk, List.cons_append] at hs
  exact step_write hs (memWrite_image_of_free (s := { s with schedule := (scriptSetr i v).drop (k + 1) ++ rest })
    _ ho i hk)

/-- The read of word `k` by `GETR`. -/
theorem step_scriptGetr (hs : s.schedule = (scriptGetr i).drop k ++ rest) : step s = .next
    { s with schedule := (scriptGetr i).drop (k + 1) ++ rest, reply := some (.data (wordOf (s.reg i) k)) } := by
  rw [drop_scriptGetr i hk, List.cons_append] at hs
  rw [step_cons hs, runEvent,
    memRead_image_of_free (s := { s with schedule := (scriptGetr i).drop (k + 1) ++ rest }) ho i hk]
  rfl

end

/-- `t` is `s` after the first `k` writes of `SETR ri, v`. -/
structure WordsWritten (i : Reg) (v : Word256) (rest : List Event) (k : Nat) (s t : State) : Prop where
  words : ∀ j, j < k → wordOf (t.reg i) j = wordOf v j
  others : ∀ r, r ≠ i → t.reg r = s.reg r
  answer : 0 < k → t.reply = some .ok
  frame : t = { s with regs := t.regs, schedule := (scriptSetr i v).drop k ++ rest, reply := t.reply }

section
variable {s : State} {i : Reg} {v : Word256} {rest : List Event} (ho : s.owned = false)
include ho

theorem runSteps_scriptSetr (hs : s.schedule = scriptSetr i v ++ rest) {k : Nat} (hk : k ≤ 8) :
    ∃ t, runSteps k s = .next t ∧ WordsWritten i v rest k s t := by
  induction k with
  | zero => exact ⟨s, rfl, nofun, fun _ _ => rfl, nofun, by rw [List.drop_zero, ← hs]⟩
  | succ k ih =>
    obtain ⟨t, hrun, done⟩ := ih (by omega)
    have hot : t.owned = false := by rw [done.frame]; exact ho
    have hst : t.schedule = (scriptSetr i v).drop k ++ rest := by rw [done.frame]
    refine ⟨_, runSteps_succ_last hrun (step_scriptSetr hot hk hst), fun j hj => ?_, fun r hr => ?_, fun _ => rfl, ?_⟩
    · show wordOf ((t.setReg i _).reg i) j = wordOf v j
      rw [setReg_reg_self]
      by_cases hjk : j = k
      · rw [hjk, wordOf_setWord_self _ _ hk]
      · rw [wordOf_setWord_ne _ _ (by omega) hjk, done.words j (by omega)]
    · exact (setReg_reg_ne t _ hr).trans (done.others r hr)
    · rw [done.frame]
      rfl

theorem runSteps_scriptGetr (hs : s.schedule = scriptGetr i ++ rest) {j : Nat} (hj : j < 8) :
    runSteps (j + 1) s = .next
      { s with schedule := (scriptGetr i).drop (j + 1) ++ rest, reply := some (.data (wordOf (s.reg i) j)) } := by
  induction j with
  | zero => exact runSteps_succ 0 (step_scriptGetr (k := 0) ho hj hs)
  | succ j ih => exact runSteps_succ_last (ih (by omega)) (step_scriptGetr (k := j + 1) ho hj rfl)

end

/-! ## The obligations -/

/-- Settles O1, by running the decoder on the 18 words of the table. -/
theorem tableWordsDecode : Obligations.TableWordsDecode := by
  unfold Obligations.TableWordsDecode
  decide

/-- Settles O6: the engine's turn on a busy block is `exec` of the word decoded. -/
theorem stepRunsDecodedCommand : Obligations.StepRunsDecodedCommand := by
  refine ⟨fun s i hbusy hdecode => ⟨fun hs => ?_, fun rest hs => ?_⟩, fun s nbits w i h => ?_⟩
  · rw [step_nil hs, engineTurn_of_decode_ok hbusy hdecode]
  · rw [step_engine hs, engineTurn_of_decode_ok (s := { s with schedule := rest }) hbusy hdecode]
  · rw [step_withFetchWord, engineTurn_of_decode_ok rfl (decode_of_decodeTableWord h)]

/-- Settles O7, event by event. -/
theorem stepRunsHostTransaction : Obligations.StepRunsHostTransaction := by
  intro s rest
  refine ⟨fun off size hs r u h => ?read, fun off size v hs r u h => step_write hs h,
    fun addr size hs r u h => ?busRead, fun addr size v hs r u h => ?busWrite, fun hidle hs => ?idle, fun hidle hs => ?idleTurn⟩
  case read | busRead | busWrite => rw [step_cons hs, runEvent, h, answered]
  case idle => rw [step_nil hs, engineTurn_of_idle hidle]
  case idleTurn => rw [step_engine hs, engineTurn_of_idle (s := { s with schedule := rest }) hidle]

/-- Settles O53: the single bits and the fields from `statusWord_getLsbD`. -/
theorem statusWordLayout : Obligations.StatusWordLayout := fun s =>
  have bit := statusWord_getLsbD s
  ⟨bit 0, bit 1, bit 2, bit 3, statusWord_reserved_low s, statusWord_code s, bit 16, bit 17, bit 18, bit 19, bit 20,
    bit 21, statusWord_reserved_high s⟩

/-- Settles O51, write by write and read by read. -/
theorem registerScriptsMoveValues : Obligations.RegisterScriptsMoveValues := by
  refine fun s i v rest ho => ⟨fun hs => ?_, fun hs j hj => runSteps_scriptGetr ho hs hj⟩
  obtain ⟨t, hrun, done⟩ := runSteps_scriptSetr ho hs le_rfl
  refine ⟨t, hrun, word256_ext done.words, done.others, ?_⟩
  have hframe := done.frame
  rwa [done.answer (by decide)] at hframe

/-- Settles O52, from the offset of a bus address. -/
theorem busAddressesReachWindow : Obligations.BusAddressesReachWindow := by
  refine ⟨Nat.mul_mod_right _ _, fun s addr size v => ⟨?_, fun h => ?_⟩⟩
  · rintro off hoff rfl
    simp only [busRead, busWrite, busOffset_base hoff, and_self]
  · simp only [busRead, busWrite, busOffset_outside h, and_self]

end Sys2Proof.Machine
end

section
/-! SUPPORT. The two halves of a product (R135, R136), the sum and the multiple of points as commands (R159, R160), and
the valid points as an abelian group, one to one with the points of the curve (R150, R152). -/

namespace Sys2Proof.Machine

/-! ## The halves of a product (R135, R136) -/

/-- A register that is not the destination keeps its number. -/
theorem OnlyRegs.num_of_ne {rd r : Reg} {s t : State} (h : OnlyRegs [rd] s t) (hne : r ≠ rd) : t.num r = s.num r :=
  congrArg BitVec.toNat (h.others r (by simpa using hne))

section
variable (s : State) (rd ra rb : Reg)

theorem product_low_lt : s.num ra * s.num rb % 2 ^ 256 < 2 ^ 256 := Nat.mod_lt _ (Nat.two_pow_pos 256)

theorem product_high_lt : s.num ra * s.num rb / 2 ^ 256 < 2 ^ 256 :=
  Nat.div_lt_of_lt_mul (Nat.mul_lt_mul'' (num_lt s ra) (num_lt s rb))

theorem givesNumber_mull : GivesNumber s (exec (.mull rd ra rb) s) rd (s.num ra * s.num rb % 2 ^ 256) :=
  completes_completeResult rd _ s (product_low_lt s ra rb)

theorem givesNumber_mulh : GivesNumber s (exec (.mulh rd ra rb) s) rd (s.num ra * s.num rb / 2 ^ 256) :=
  completes_completeResult rd _ s (product_high_lt s ra rb)

end

/-! ## The valid points and the points of the curve -/

open WeierstrassCurve.Affine

/-- A point of the curve has one stored form. -/
theorem StandsFor.unique {p1 p2 : Point} {q : shortCurve.Point} (h1 : StandsFor p1 q) (h2 : StandsFor p2 q) :
    p1 = p2 := by
  match p1, p2 with
  | .infinity, .infinity => rfl
  | .infinity, .affine x y =>
    obtain ⟨-, -, h, hq⟩ := standsFor_affine_iff.mp h2
    exact absurd (hq.symm.trans (standsFor_infinity_iff.mp h1)) (Point.some_ne_zero h)
  | .affine x y, .infinity =>
    obtain ⟨-, -, h, hq⟩ := standsFor_affine_iff.mp h1
    exact absurd (hq.symm.trans (standsFor_infinity_iff.mp h2)) (Point.some_ne_zero h)
  | .affine x1 y1, .affine x2 y2 =>
    obtain ⟨hx1, hy1, on1, hq1⟩ := standsFor_affine_iff.mp h1
    obtain ⟨hx2, hy2, on2, hq2⟩ := standsFor_affine_iff.mp h2
    obtain ⟨hx, hy⟩ := Point.some.inj (hq1.symm.trans hq2)
    rw [natCast_inj_of_lt hx1 hx2, BitVec.toNat_inj] at hx
    rw [natCast_inj_of_lt hy1 hy2, BitVec.toNat_inj] at hy
    rw [hx, hy]

section
variable [Fact (Nat.Prime Config.curve.p)]

/-- Every point of the curve has a stored form: its coordinates as numbers below `p`. -/
theorem exists_point_standsFor (q : shortCurve.Point) : ∃ pt, StandsFor pt q := by
  match q with
  | .zero => exact ⟨.infinity, standsFor_infinity_iff.mpr rfl⟩
  | .some x y h =>
    have hx := toNat_ofNat_of_lt_p (ZMod.val_lt x)
    have hy := toNat_ofNat_of_lt_p (ZMod.val_lt y)
    refine ⟨affineNat x.val y.val, standsFor_affine_iff.mpr ?_⟩
    simp only [hx, hy, ZMod.natCast_zmod_val]
    exact ⟨ZMod.val_lt x, ZMod.val_lt y, h, trivial⟩

/-- `negPoint` stands for the negative: the same `x` and `−y`. -/
theorem standsFor_negPoint {pt : Point} {q : shortCurve.Point} (h : StandsFor pt q) : StandsFor (negPoint pt) (-q) := by
  cases pt with
  | infinity =>
    rw [standsFor_infinity_iff.mp h, neg_zero]
    exact standsFor_infinity_iff.mpr rfl
  | affine x y =>
    obtain ⟨hx, hy, hon, rfl⟩ := standsFor_affine_iff.mp h
    have hy' : (BitVec.ofNat 256 (fsub 0 y.toNat Config.curve.p)).toNat = fsub 0 y.toNat Config.curve.p :=
      toNat_ofNat_of_lt_p (fsub_lt p_pos _ _)
    have hneg : ((fsub 0 y.toNat Config.curve.p : Nat) : ZMod Config.curve.p) =
        shortCurve.negY x.toNat y.toNat := by
      rw [cast_fsub _ _ p_pos, shortCurve_negY, Nat.cast_zero, zero_sub]
    rw [negPoint, standsFor_affine_iff, hy', Point.neg_some]
    simp only [hneg]
    exact ⟨hx, fsub_lt p_pos _ _, (nonsingular_neg ..).mpr hon, trivial⟩

end

/-! ## The obligations -/

/-- Settles O25: remainder and quotient of the product by `2^256`. -/
theorem wideProductHalves : Obligations.WideProductHalves := fun s rd ra rb =>
  ⟨encoded_mull rd ra rb, encoded_mulh rd ra rb, _, _, product_low_lt s ra rb, Nat.div_add_mod' ..,
    givesNumber_mull s rd ra rb, givesNumber_mulh s rd ra rb⟩

/-- Settles O26: the third command reduces `hi·2^256 + lo`, which is the product. -/
theorem wideProductReducesToMul : Obligations.WideProductReducesToMul := by
  intro s m r1 r2 r3 r4 r5 h41 h42 h34 h1 h2
  obtain ⟨t1, ht1, -, hhigh, only1, flags1⟩ := givesNumber_mulh s r4 r1 r2
  obtain ⟨t2, ht2, -, hlow, only2, flags2⟩ := givesNumber_mull t1 r3 r1 r2
  obtain ⟨t3, ht3, -, hreduced, -, flags3⟩ := givesNumber_execMredW (s := t2) (m := m) (rd := r5) (ra := r4) (rb := r3)
  obtain ⟨u, hu, -, hmul, -, flagsU⟩ :=
    givesNumber_binaryField (rd := r5) (f := fmul) h1 h2 (fmul_lt (modulus_pos m) _ _)
  rw [only1.num_of_ne h41.symm, only1.num_of_ne h42.symm] at hlow
  rw [only2.num_of_ne h34.symm, hhigh, hlow, Nat.div_add_mod'] at hreduced flags3
  refine ⟨t1, t2, t3, u, ht1, ht2, ht3, hu, hreduced.trans hmul.symm, ?_⟩
  rw [flags3, flags2, flags1, flagsU, fmul]

/-- Settles O35: both commands are `completePoint`. -/
theorem pointArithmeticResults : Obligations.PointArithmeticResults := fun s pd pa pb rb =>
  ⟨encoded_padd pd pa pb, givesPoint_completePoint s pd _, encoded_pmul pd pa rb, givesPoint_completePoint s pd _⟩

/-- Settles O29, in the terms of `StandsFor`. -/
theorem pointAddRefinesCurveGroup : Obligations.PointAddRefinesCurveGroup := by
  have : Fact (Nat.Prime Config.curve.p) := ⟨p_prime⟩
  refine ⟨fun pt hvalid => ?_, fun q => ?_, fun p1 p2 q v1 v2 r1 r2 => StandsFor.unique ⟨v1, r1⟩ ⟨v2, r2⟩,
    fun p1 p2 q1 q2 v1 v2 r1 r2 => (standsFor_pointAdd ⟨v1, r1⟩ ⟨v2, r2⟩).represents⟩
  · obtain ⟨q, h⟩ := exists_standsFor hvalid
    exact ⟨q, h.represents⟩
  · obtain ⟨pt, h⟩ := exists_point_standsFor q
    exact ⟨pt, h.valid, h.represents⟩

/-- Settles O30, by the loop of R153 over the bits of the scalar (`standsFor_scalarMul`). -/
theorem scalarMulRefinesCurveGroup : Obligations.ScalarMulRefinesCurveGroup := by
  have : Fact (Nat.Prime Config.curve.p) := ⟨p_prime⟩
  exact fun k pt q hk hvalid hq => (standsFor_scalarMul hk ⟨hvalid, hq⟩).represents

/-- Settles O31: the laws of the curve's group, carried over by `StandsFor.unique`. -/
theorem validPointsFormAbelianGroup : Obligations.ValidPointsFormAbelianGroup := by
  have : Fact (Nat.Prime Config.curve.p) := ⟨p_prime⟩
  intro p1 p2 p3 v1 v2 v3
  obtain ⟨q1, h1⟩ := exists_standsFor v1
  obtain ⟨q2, h2⟩ := exists_standsFor v2
  obtain ⟨q3, h3⟩ := exists_standsFor v3
  have hcomm := standsFor_pointAdd h2 h1
  have hassoc := standsFor_pointAdd h1 (standsFor_pointAdd h2 h3)
  have hcancel := standsFor_pointAdd h1 (standsFor_negPoint h1)
  rw [add_comm q2 q1] at hcomm
  rw [← add_assoc q1 q2 q3] at hassoc
  rw [add_neg_cancel q1] at hcancel
  exact ⟨(standsFor_pointAdd h1 h2).valid, (standsFor_negPoint h1).valid, (standsFor_pointAdd h1 h2).unique hcomm,
    (standsFor_pointAdd (standsFor_pointAdd h1 h2) h3).unique hassoc, pointAdd_infinity_right _ p1,
    hcancel.unique (standsFor_infinity_iff.mpr rfl)⟩

end Sys2Proof.Machine
end

section
/-! SUPPORT. Lengths and ranges of the hash functions' byte strings (R202 to R205), the search for a nonce as a run of
steps (R351), and `KGEN` (R225). -/

namespace Sys2Proof.Machine

/-! ## Padding (R202) -/

/-- The last eight bytes of the padding are the bit length, big-endian. -/
theorem shaPad_eq (msg : Bytes) : shaPad msg = msg ++ [0x80] ++ List.replicate (shaPadZeros msg.length) 0 ++
    ((List.range 8).map fun t => BitVec.ofNat 8 (8 * msg.length / 256 ^ (7 - t))) := by
  refine congrArg _ (List.map_congr_left fun t ht => BitVec.eq_of_toNat_eq ?_)
  have ht : t < 8 := List.mem_range.mp ht
  simp only [BitVec.extractLsb'_toNat, BitVec.toNat_ofNat, Nat.shiftRight_eq_div_pow]
  interval_cases t <;> omega

theorem shaPad_length (msg : Bytes) : (shaPad msg).length = msg.length + 1 + shaPadZeros msg.length + 8 := by
  simp [shaPad, Nat.add_assoc, Nat.add_comm 1]

theorem shaPadZeros_fills (len : Nat) : (len + 1 + shaPadZeros len + 8) % 64 = 0 := by
  rw [shaPadZeros]
  omega

theorem shaPadZeros_le {len z : Nat} (h : (len + 1 + z + 8) % 64 = 0) : shaPadZeros len ≤ z := by
  rw [shaPadZeros]
  omega

/-! ## Lengths of digests and buffers (R203 to R205) -/

@[simp] theorem sha256_length (msg : Bytes) : (sha256 msg).length = 32 := rfl

@[simp] theorem hmac_length (key msg : Bytes) : (hmac key msg).length = 32 := sha256_length _

@[simp] theorem nonceAt_v_length (n d z j : Nat) : (nonceAt n d z j).v.length = 32 := by
  cases j <;> exact hmac_length ..

@[simp] theorem nonceAt_k_length (n d z j : Nat) : (nonceAt n d z j).k.length = 32 := by
  cases j <;> exact hmac_length ..

/-! ## Ranges of big-endian integers (R14) -/

theorem intOf_lt (s : Bytes) : intOf s < 256 ^ s.length := by
  induction s using List.reverseRecOn with
  | nil => exact Nat.one_pos
  | append_singleton s b ih =>
    have hb := b.isLt
    rw [intOf] at ih ⊢
    rw [List.foldl_append, List.length_append, List.length_singleton, pow_succ]
    simp only [List.foldl_cons, List.foldl_nil]
    omega

theorem nonceCandidate_lt (n d z j : Nat) : nonceCandidate n d z j < 2 ^ 256 := by
  have h := intOf_lt (nonceAt n d z j).v
  rwa [nonceAt_v_length, show 256 ^ 32 = 2 ^ 256 by norm_num] at h

theorem nonceAccepted_iff (n c : Nat) : nonceAccepted n c = true ↔ 1 ≤ c ∧ c < n := decide_eq_true_iff

/-! ## The search as a run of steps (R351; log entry 3) -/

/-- A success does not depend on how many candidates were passed over. -/
theorem Succeeded.of_tries {s t : State} {n : Nat} (h : Succeeded { s with nonceTry := n } t) : Succeeded s t :=
  ⟨h.busy, h.done, h.err, h.fatal, h.code, h.istat, h.cmd, h.ien, h.nonceTry, h.schedule, h.reply⟩

/-- Neither does what a command wrote. -/
theorem OnlyRegs.of_tries {written : List Reg} {s t : State} {n : Nat}
    (h : OnlyRegs written { s with nonceTry := n } t) : OnlyRegs written s t :=
  ⟨h.others, h.points, h.key⟩

theorem Completes.imp {s : State} {o : Result} {Q Q' : State → Prop} (h : Completes s o Q) (hq : ∀ t, Q t → Q' t) :
    Completes s o Q' := by
  obtain ⟨t, ht, ok, h⟩ := h
  exact ⟨t, ht, ok, hq t h⟩

section
variable {s : State} {i : Instr} {j : Nat} (hbusy : s.busy = true) (hcmd : decode s.cmd = .ok i)
  (hsched : s.schedule = [])
include hbusy hcmd hsched

/-- With the engine left to run, a step of a running command is the command's turn. -/
theorem step_of_running (n : Nat) : step { s with nonceTry := n } = exec i { s with nonceTry := n } := by
  rw [step_nil (s := { s with nonceTry := n }) hsched,
    engineTurn_of_decode_ok (s := { s with nonceTry := n }) hbusy hcmd]

variable (htries : s.nonceTry = 0)
  (hpass : ∀ l, l < j → exec i { s with nonceTry := l } = .next { s with nonceTry := l + 1 })
include htries hpass

/-- After `l` steps, `l` candidates were passed over, and nothing else changed. -/
theorem runSteps_passing {l : Nat} (hl : l ≤ j) : runSteps l s = .next { s with nonceTry := l } := by
  induction l with
  | zero => rw [runSteps_zero, ← htries]
  | succ l ih =>
    exact runSteps_succ_last (ih (by omega)) ((step_of_running hbusy hcmd hsched l).trans (hpass l (by omega)))

/-- A search that completes at candidate `j` is running with no data changed for `j` steps, and is over after one
more. -/
theorem search_run {Q : State → Prop} (hends : Completes { s with nonceTry := j } (exec i { s with nonceTry := j }) Q) :
    (∀ l, l ≤ j → ∃ u, runSteps l s = .next u ∧ u.busy = true ∧ SameData s u) ∧
    ∃ t, runSteps (j + 1) s = .next t ∧ Succeeded s t ∧ Q t := by
  have hrun : ∀ l, l ≤ j → runSteps l s = .next { s with nonceTry := l } := fun l hl =>
    runSteps_passing hbusy hcmd hsched htries hpass hl
  obtain ⟨t, ht, ok, hq⟩ := hends
  exact ⟨fun l hl => ⟨_, hrun l hl, hbusy, rfl, rfl, rfl, rfl⟩,
    t, runSteps_succ_last (hrun j le_rfl) ((step_of_running hbusy hcmd hsched j).trans ht), ok.of_tries, hq⟩

end

/-! ## `KGEN` (R225) -/

section
variable {s : State} {rd ra : Reg}

theorem errs_kgen (hkey : s.key.valid = false) : Errs s (exec (.kgen rd ra) s) .noKey := by
  rw [exec, execKgen, if_neg (Bool.eq_false_iff.mp hkey)]
  exact errs_raiseError ..

section
variable {k : Nat} (hk : k = nonceCandidate Config.curve.n s.key.secret.toNat (s.num ra) s.nonceTry)
  (hkey : s.key.valid = true)
include hk hkey

theorem completes_kgen (h1 : 1 ≤ k) (hn : k < Config.curve.n) : Completes s (exec (.kgen rd ra) s) fun t =>
    t.num rd = k ∧ OnlyRegs [rd] s t ∧ t.flags = s.flags := by
  rw [exec, execKgen, if_pos hkey, ← hk, if_pos ((nonceAccepted_iff ..).mpr ⟨h1, hn⟩)]
  obtain ⟨t, ht, ok, hreg, hrest⟩ := completes_setReg s rd (BitVec.ofNat 256 k)
  refine ⟨t, ht, ok, ?_, hrest⟩
  rw [State.num, hreg, BitVec.toNat_ofNat, Nat.mod_eq_of_lt (hn.trans n_lt)]

theorem kgen_passes (h : ¬ (1 ≤ k ∧ k < Config.curve.n)) :
    exec (.kgen rd ra) s = .next { s with nonceTry := s.nonceTry + 1 } := by
  rw [exec, execKgen, if_pos hkey, ← hk, if_neg (mt (nonceAccepted_iff ..).mp h)]
  rfl

end

end

/-! ## The obligations -/

/-- Settles O47: the padding by its count of zeros, every buffer and digest as an output of `sha256`. -/
theorem hashByteLengths : Obligations.HashByteLengths := by
  refine ⟨fun v => ⟨be32_length v, intOf_be32 v⟩, fun msg => ⟨_, shaPad_eq msg, ?_, fun z => shaPadZeros_le⟩,
    sha256_length, hmac_length,
    fun n d z j => ⟨nonceAt_v_length n d z j, nonceAt_k_length n d z j, nonceCandidate_lt n d z j⟩⟩
  rw [shaPad_length]
  exact shaPadZeros_fills _

/-- Settles O41: one candidate by `completes_kgen` and `kgen_passes`, the run over the candidates by `search_run`. -/
theorem kgenGivesFirstNonce : Obligations.KgenGivesFirstNonce := by
  intro s rd ra
  refine ⟨encoded_kgen rd ra, errs_kgen,
    fun k hk hkey => ⟨fun h1 hn => completes_kgen hk hkey h1 hn, kgen_passes hk hkey⟩, ?_⟩
  intro j hbusy hcmd hsched htries hkey k hpass h1 hn
  have hdecode : decode s.cmd = .ok (.kgen rd ra) := hcmd ▸ (encoded_kgen rd ra).decode_encode
  exact search_run hbusy hdecode hsched htries
    (fun l hl => kgen_passes (s := { s with nonceTry := l }) rfl hkey (hpass l hl))
    ((completes_kgen (s := { s with nonceTry := j }) rfl hkey h1 hn).imp
      fun _ ⟨hnum, only, hflags⟩ => ⟨hnum, only.of_tries, hflags⟩)

end Sys2Proof.Machine
end

section
/-! SUPPORT. `SIGN` (R224, R226): one candidate, the run over the candidates, the ranges of `r` and `s`, and the
equation by which `VERIFY` accepts what `SIGN` wrote (R227). -/

namespace Sys2Proof.Machine

/-! ## One pass of the loop (R224) -/

section
variable (c : Curve) {d z k : Nat}

/-- `s` before it is made low, with the inverse of the nonce written as the Fermat power. -/
theorem signatureS_eq (hn : 2 < c.n) (hn' : c.n < 2 ^ 256) (r : Nat) :
    signatureS c d z r k = (z + r * d) * (k ^ (c.n - 2) % c.n) % c.n := by
  rw [signatureS, finv_eq hn hn']
  simp only [fmul, fadd, Nat.mod_add_mod, Nat.add_mod_mod, Nat.mod_mul_mod]

variable {x y : Word256} (h : scalarMul c k (generator c) = .affine x y)
include h

theorem signWith_of_zero (h0 : x.toNat % c.n = 0 ∨ signatureS c d z (x.toNat % c.n) k = 0) :
    signWith c d z k = none := by
  simp only [signWith, h, xModN]
  split_ifs with hr hs
  · rfl
  · rfl
  · exact absurd h0 (not_or.mpr ⟨hr, hs⟩)

theorem signWith_of_ne_zero (hr : x.toNat % c.n ≠ 0) (hs : signatureS c d z (x.toNat % c.n) k ≠ 0) :
    signWith c d z k = some (x.toNat % c.n, lowS c (signatureS c d z (x.toNat % c.n) k)) := by
  simp only [signWith, h, xModN, if_neg hr, if_neg hs]

end

/-- A pass that gives a signature found an affine `k·G`, and neither `r` nor `s` was 0. -/
theorem signWith_eq_some {c : Curve} {d z k r sv : Nat} (h : signWith c d z k = some (r, sv)) :
    ∃ x y, scalarMul c k (generator c) = .affine x y ∧ r = x.toNat % c.n ∧ r ≠ 0 ∧ signatureS c d z r k ≠ 0 ∧
      sv = lowS c (signatureS c d z r k) := by
  cases hpoint : scalarMul c k (generator c) with
  | infinity => simp [signWith, hpoint, xModN] at h
  | affine x y =>
    by_cases h0 : x.toNat % c.n = 0 ∨ signatureS c d z (x.toNat % c.n) k = 0
    · simp [signWith_of_zero c hpoint h0] at h
    · obtain ⟨hr, hs⟩ := not_or.mp h0
      rw [signWith_of_ne_zero c hpoint hr hs] at h
      cases h
      exact ⟨x, y, rfl, rfl, hr, hs, rfl⟩

theorem signAt_of_accepted {c : Curve} {d z j : Nat}
    (h : 1 ≤ nonceCandidate c.n d z j ∧ nonceCandidate c.n d z j < c.n) :
    signAt c d z j = signWith c d z (nonceCandidate c.n d z j) :=
  if_pos ((nonceAccepted_iff ..).mpr h)

theorem signAt_of_rejected {c : Curve} {d z j : Nat}
    (h : ¬ (1 ≤ nonceCandidate c.n d z j ∧ nonceCandidate c.n d z j < c.n)) : signAt c d z j = none :=
  if_neg (mt (nonceAccepted_iff ..).mp h)

theorem signAt_eq_some {c : Curve} {d z j r sv : Nat} (h : signAt c d z j = some (r, sv)) :
    ∃ k, 1 ≤ k ∧ k < c.n ∧ signWith c d z k = some (r, sv) := by
  by_cases hk : 1 ≤ nonceCandidate c.n d z j ∧ nonceCandidate c.n d z j < c.n
  · exact ⟨_, hk.left, hk.right, signAt_of_accepted hk ▸ h⟩
  · simp [signAt_of_rejected hk] at h

/-! ## Ranges (R224) -/

theorem mod_n_lt (a : Nat) : a % Config.curve.n < Config.curve.n := Nat.mod_lt _ (modulus_pos .n)

theorem signatureS_lt (d z r k : Nat) : signatureS Config.curve d z r k < Config.curve.n :=
  fmul_lt (modulus_pos .n) ..

theorem lowS_range {sv : Nat} (h0 : sv ≠ 0) (hlt : sv < Config.curve.n) :
    1 ≤ lowS Config.curve sv ∧ lowS Config.curve sv ≤ (Config.curve.n - 1) / 2 := by
  have hodd : Config.curve.n % 2 = 1 := modulus_odd .n
  rw [lowS]
  split <;> omega

theorem signature_range {d z j r sv : Nat} (h : signAt Config.curve d z j = some (r, sv)) :
    1 ≤ r ∧ r < Config.curve.n ∧ 1 ≤ sv ∧ sv ≤ (Config.curve.n - 1) / 2 := by
  obtain ⟨k, -, -, hk⟩ := signAt_eq_some h
  obtain ⟨x, y, -, hr, hr0, hs0, hsv⟩ := signWith_eq_some hk
  obtain ⟨hlo, hhi⟩ := lowS_range hs0 (signatureS_lt ..)
  rw [← hsv] at hlo hhi
  have hrn : r < Config.curve.n := by
    rw [hr]
    exact mod_n_lt _
  exact ⟨Nat.pos_of_ne_zero hr0, hrn, hlo, hhi⟩

/-! ## The command (R226) -/

section
variable {s : State} {rd re ra : Reg}

theorem errs_sign (hkey : s.key.valid = false) : Errs s (exec (.sign rd re ra) s) .noKey := by
  rw [exec, execSign, if_neg (Bool.eq_false_iff.mp hkey)]
  exact errs_raiseError ..

section
variable (hkey : s.key.valid = true)
include hkey

theorem sign_passes (h : signAt Config.curve s.key.secret.toNat (s.num ra) s.nonceTry = none) :
    exec (.sign rd re ra) s = .next { s with nonceTry := s.nonceTry + 1 } := by
  rw [exec, execSign, if_pos hkey, h]
  rfl

/-- Both halves are written together. -/
theorem completes_sign (hne : rd ≠ re) {r sv : Nat}
    (h : signAt Config.curve s.key.secret.toNat (s.num ra) s.nonceTry = some (r, sv)) :
    Completes s (exec (.sign rd re ra) s) fun t =>
      t.num rd = r ∧ t.num re = sv ∧ OnlyRegs [rd, re] s t ∧ t.flags = s.flags := by
  obtain ⟨-, hr, -, hsv⟩ := signature_range h
  have hfits : sv < 2 ^ 256 := by
    have := n_lt
    omega
  rw [exec, execSign, if_pos hkey, h]
  refine completes_complete (sameShell_of_data s _ _ _ _) ⟨?_, ?_, ⟨fun i hi => ?_, rfl, rfl⟩, rfl⟩
  · show (((s.setReg rd _).setReg re _).reg rd).toNat = r
    rw [setReg_reg_ne _ _ hne, setReg_reg_self, BitVec.toNat_ofNat, Nat.mod_eq_of_lt (hr.trans n_lt)]
  · show (((s.setReg rd _).setReg re _).reg re).toNat = sv
    rw [setReg_reg_self, BitVec.toNat_ofNat, Nat.mod_eq_of_lt hfits]
  · obtain ⟨hrd, hre⟩ : i ≠ rd ∧ i ≠ re := by simpa using hi
    exact (setReg_reg_ne _ _ hre).trans (setReg_reg_ne s _ hrd)

/-- A `SIGN` that is over wrote the signature of its candidate. -/
theorem signed_of_exec {t : State} (hne : rd ≠ re) (hbusy : s.busy = true) (h : exec (.sign rd re ra) s = .next t)
    (hover : t.busy = false) :
    signAt Config.curve s.key.secret.toNat (s.num ra) s.nonceTry = some (t.num rd, t.num re) ∧
      OnlyRegs [rd, re] s t := by
  cases hsign : signAt Config.curve s.key.secret.toNat (s.num ra) s.nonceTry with
  | none =>
    cases h.symm.trans (sign_passes hkey hsign)
    simp [hbusy] at hover
  | some pair =>
    obtain ⟨-, hr, hsv, only, -⟩ := (completes_sign hkey hne hsign).of_eq_next h
    exact ⟨by rw [hr, hsv], only⟩

end

end

/-! ## The signature equation (R224, R227) -/

section
variable {d z k r sv : Nat}

theorem cast_mul_finv {b : Nat} (hb : b % Config.curve.n ≠ 0) :
    (b : ZMod Config.curve.n) * (finv b Config.curve.n : ZMod Config.curve.n) = 1 := by
  rw [← cast_fmul, fmul_finv n_prime (modulus_gt_two .n) n_lt hb, Nat.cast_one]

/-- `s·k = z + r·d` modulo `n`. -/
theorem cast_signatureS_mul (hk : k % Config.curve.n ≠ 0) (r : Nat) :
    (signatureS Config.curve d z r k : ZMod Config.curve.n) * k = z + r * d := by
  have hinv := cast_mul_finv hk
  rw [signatureS, cast_fmul, cast_fadd, cast_fmul, ZMod.natCast_mod]
  linear_combination ((z : ZMod Config.curve.n) + r * d) * hinv

/-- Low-S normalisation gives `s` or `−s`. -/
theorem cast_lowS {sv : Nat} (hlt : sv < Config.curve.n) :
    (lowS Config.curve sv : ZMod Config.curve.n) = sv ∨ (lowS Config.curve sv : ZMod Config.curve.n) = -sv := by
  rw [lowS]
  split
  · rw [Nat.cast_sub hlt.le, CharP.cast_eq_zero, zero_sub]
    exact .inr rfl
  · exact .inl rfl

/-- The scalar that `VERIFY` multiplies `G` by is the nonce or its negative. -/
theorem cast_verify_scalar (hk : k % Config.curve.n ≠ 0) (hsv : sv % Config.curve.n ≠ 0)
    (heq : sv = lowS Config.curve (signatureS Config.curve d z r k)) :
    let e := z * finv sv Config.curve.n % Config.curve.n + r * finv sv Config.curve.n % Config.curve.n * d
    (e : ZMod Config.curve.n) = k ∨ (e : ZMod Config.curve.n) = -k := by
  have hequation := cast_signatureS_mul (d := d) (z := z) hk r
  have hinv := cast_mul_finv hsv
  simp only [Nat.cast_add, Nat.cast_mul, ZMod.natCast_mod]
  rcases cast_lowS (signatureS_lt d z r k) with h | h <;> rw [← heq] at h
  · left
    rw [← h] at hequation
    linear_combination -(finv sv Config.curve.n : ZMod Config.curve.n) * hequation + k * hinv
  · right
    rw [eq_neg_iff_add_eq_zero] at h
    linear_combination -(finv sv Config.curve.n : ZMod Config.curve.n) * hequation - k * hinv +
      (finv sv Config.curve.n : ZMod Config.curve.n) * k * h

end

/-- Multiples of the generator by numbers with the same residue modulo `n` are equal (R164). -/
theorem nsmul_eq_of_cast_eq [Fact (Nat.Prime Config.curve.p)] {g : shortCurve.Point}
    (hg : StandsFor (generator Config.curve) g) {a b : Nat} (h : (a : ZMod Config.curve.n) = b) : a • g = b • g := by
  rw [nsmul_eq_nsmul_iff_modEq, addOrderOf_eq_n hg, ← ZMod.natCast_eq_natCast_iff]
  exact h

/-- A point and its negative have the same `x` (R152). -/
theorem xModN_negPoint (c : Curve) (pt : Point) : xModN c (negPoint pt) = xModN c pt := by
  cases pt <;> rfl

/-- What `ecdsa_verify` computes for a signature is `k·G` or its negative. -/
theorem verify_point_eq {d z k r sv : Nat} (hd : d < 2 ^ 256) (hk : k < Config.curve.n) (hk0 : k % Config.curve.n ≠ 0)
    (hsv : sv % Config.curve.n ≠ 0) (heq : sv = lowS Config.curve (signatureS Config.curve d z r k)) :
    let point := pointAdd Config.curve
      (scalarMul Config.curve (z * finv sv Config.curve.n % Config.curve.n) (generator Config.curve))
      (scalarMul Config.curve (r * finv sv Config.curve.n % Config.curve.n)
        (scalarMul Config.curve d (generator Config.curve)))
    point = scalarMul Config.curve k (generator Config.curve) ∨
      point = negPoint (scalarMul Config.curve k (generator Config.curve)) := by
  have : Fact (Nat.Prime Config.curve.p) := ⟨p_prime⟩
  obtain ⟨g, hg⟩ := exists_standsFor generator_valid
  have hfits : ∀ a, a % Config.curve.n < 2 ^ 256 := fun a => (mod_n_lt a).trans n_lt
  have hsum := standsFor_pointAdd (standsFor_scalarMul (hfits (z * finv sv Config.curve.n)) hg)
    (standsFor_scalarMul (hfits (r * finv sv Config.curve.n)) (standsFor_scalarMul hd hg))
  rw [← mul_nsmul', ← add_nsmul] at hsum
  have hnonce := standsFor_scalarMul (hk.trans n_lt) hg
  rcases cast_verify_scalar hk0 hsv heq with h | h
  · rw [nsmul_eq_of_cast_eq hg h] at hsum
    exact .inl (hsum.unique hnonce)
  · have hzero : (z * finv sv Config.curve.n % Config.curve.n +
        r * finv sv Config.curve.n % Config.curve.n * d + k) • g = 0 • g := by
      refine nsmul_eq_of_cast_eq hg ?_
      rw [Nat.cast_add, h, neg_add_cancel, Nat.cast_zero]
    rw [zero_nsmul, add_nsmul, add_eq_zero_iff_eq_neg] at hzero
    rw [hzero] at hsum
    exact .inr (hsum.unique (standsFor_negPoint hnonce))

/-- `ecdsa_verify` accepts what a pass of the signing loop gives, under the public point of the secret. -/
theorem ecdsaVerify_of_signWith {d z k r sv : Nat} (hd : d < 2 ^ 256) (hk1 : 1 ≤ k) (hk : k < Config.curve.n)
    (h : signWith Config.curve d z k = some (r, sv)) :
    ecdsaVerify Config.curve (scalarMul Config.curve d (generator Config.curve)) z r sv = true := by
  obtain ⟨x, y, hpoint, hr, hr0, hs0, hsv⟩ := signWith_eq_some h
  have hrn : r < Config.curve.n := by
    rw [hr]
    exact mod_n_lt _
  obtain ⟨hlo, hhi⟩ := lowS_range hs0 (signatureS_lt d z r k)
  rw [← hsv] at hlo hhi
  have hsvn : sv < Config.curve.n := by omega
  have hx : xModN Config.curve (scalarMul Config.curve k (generator Config.curve)) = some r :=
    xModN_eq_some_iff.mpr ⟨x, y, hpoint, hr.symm⟩
  rw [ecdsaVerify_of_in_range (by omega)]
  rcases verify_point_eq (z := z) (r := r) hd hk (by rw [Nat.mod_eq_of_lt hk]; omega)
    (by rw [Nat.mod_eq_of_lt hsvn]; omega) hsv with heq | heq
  · rw [heq, hx]
  · rw [heq, xModN_negPoint, hx]

/-! ## The obligations -/

/-- Settles O42: one candidate, by what `signAt` gives for it. -/
theorem signAtOneCandidate : Obligations.SignAtOneCandidate := by
  intro s rd re ra hne n z d k raw
  have hraw : ∀ r, raw r = signatureS Config.curve d z r k := fun r =>
    (signatureS_eq Config.curve (modulus_gt_two .n) n_lt r).symm
  refine ⟨encoded_sign ra hne, errs_sign, fun x y hkey h1 hn hpoint => ⟨fun hr hs => ?_, fun h0 => ?_⟩,
    fun hkey hout => sign_passes hkey (signAt_of_rejected hout)⟩
  · rw [hraw] at hs ⊢
    exact completes_sign hkey hne ((signAt_of_accepted ⟨h1, hn⟩).trans (signWith_of_ne_zero _ hpoint hr hs))
  · rw [hraw] at h0
    exact sign_passes hkey ((signAt_of_accepted ⟨h1, hn⟩).trans (signWith_of_zero _ hpoint h0))

/-- Settles O43, by `search_run`. -/
theorem signUsesFirstUsableNonce : Obligations.SignUsesFirstUsableNonce := by
  intro s rd re ra j r sv hne hbusy hcmd hsched htries hkey hpass hsign
  have hdecode : decode s.cmd = .ok (.sign rd re ra) := hcmd ▸ (encoded_sign ra hne).decode_encode
  exact search_run hbusy hdecode hsched htries
    (fun l hl => sign_passes (s := { s with nonceTry := l }) hkey (hpass l hl))
    ((completes_sign (s := { s with nonceTry := j }) hkey hne hsign).imp
      fun _ ⟨hr, hsv, only, hflags⟩ => ⟨hr, hsv, only.of_tries, hflags⟩)

/-- Settles O44: the ranges of the pair that was written. -/
theorem signaturesAreLowS : Obligations.SignaturesAreLowS := by
  intro s t rd re ra hne hkey hbusy h hover
  obtain ⟨hsign, -⟩ := signed_of_exec hkey hne hbusy h hover
  obtain ⟨hr1, hrn, hs1, hs⟩ := signature_range hsign
  exact ⟨hr1, Nat.le_sub_one_of_lt hrn, hs1, hs⟩

/-- Settles O46: the key slot's public point is `d·G`, `KEYPUB` copies it, and `ecdsaVerify_of_signWith` holds of the
registers that `SIGN` left. -/
theorem signedMessageVerifies : Obligations.SignedMessageVerifies := by
  intro s t rd re ra pa hne hrd hre hok hkey hbusy h hover
  obtain ⟨hsign, only⟩ := signed_of_exec hkey hne hbusy h hover
  obtain ⟨k, hk1, hk, hwith⟩ := signAt_eq_some hsign
  obtain ⟨-, -, hslot⟩ := hok.eq_keyOf hkey
  obtain ⟨u, hu, -, hpub, onlyPoint, -⟩ := completes_execKeypub (s := t) (pd := pa) (only.key ▸ hkey)
  have hz : t.num ra = s.num ra := congrArg BitVec.toNat (only.others ra (by simp [hrd, hre]))
  have hnum : ∀ r, u.num r = t.num r := fun r => congrArg BitVec.toNat (reg_congr onlyPoint.regs r)
  have hpoint : u.point pa = scalarMul Config.curve s.key.secret.toNat (generator Config.curve) := by
    rw [hpub, only.key, hslot]
    exact keyOf_pub ..
  refine ⟨u, _, hu, rfl, ?_⟩
  show ecdsaVerify Config.curve (u.point pa) (u.num ra) (u.num rd) (u.num re) = true
  rw [hpoint, hnum, hnum, hnum, hz]
  exact ecdsaVerify_of_signWith s.key.secret.isLt hk1 hk hwith

end Sys2Proof.Machine
end
